-- ==== Sys2Proof/Word.lean ====
section
/-! DEFINITION. The words the block's registers and byte units hold, and the exact numbers its rules compute with.
A register is 64 bits wide (`XLEN`, 00_scope.md R9), a register index 32 bits (`IDXLEN`), a payload or PCM byte 8.
A real value of a rule (00_scope.md R12) is held as an exact rational (log entry 1). -/

namespace Sys2Proof

/-- A 64-bit register value (00_scope.md R9: `XLEN` = 64). -/
abbrev Word := BitVec 64

/-- A byte unit of a stream port (10_state.md R60, R61). -/
abbrev Byte := BitVec 8

/-- A register index (00_scope.md R9: `IDXLEN` = 32; 20_memory.md R101). -/
abbrev Index := BitVec 32

/-- A real value as the model holds it: an exact rational (00_scope.md R12; log entry 1). -/
abbrev Scalar := Rat

/-- A complex value: a symbol, a calibration gain, a constellation point (00_scope.md R12). -/
@[ext]
structure Cx where
  re : Scalar
  im : Scalar
  deriving DecidableEq, Repr

end Sys2Proof
end

