-- ==== Sys2Proof/Syntax.lean ====
section
/-! DEFINITION. The ten command words of 30_encoding.md R143, one constructor per row of spec/opcode_table.json. -/

namespace Sys2Proof

/-- The commands of the opcode map (30_encoding.md R143). Only `mod`, `demod` and `rsAdv` carry a count (R142):
blocks for the first two, output samples for the third. -/
inductive Instr
  /-- op 0x00 (45_control.md R350). -/
  | nop
  /-- op 0x01, soft reset, and the abort of a busy engine (45_control.md R351). -/
  | srst
  /-- op 0x02 (45_control.md R352). -/
  | calClear
  /-- op 0x10, the frame sender (43_frame_tx.md R250). -/
  | send
  /-- op 0x11, the frame receiver (44_frame_rx.md R280). -/
  | recv
  /-- op 0x20, `n` blocks (41_modulator.md R200). -/
  | mod (n : Nat)
  /-- op 0x21, `n` blocks (42_demodulator.md R220). -/
  | demod (n : Nat)
  /-- op 0x30 (40_resampler.md R170). -/
  | rsInit
  /-- op 0x31 (40_resampler.md R171). -/
  | rsRatio
  /-- op 0x32, `n` output samples (40_resampler.md R172). -/
  | rsAdv (n : Nat)
  deriving DecidableEq, Repr

end Sys2Proof
end

