-- ==== Sys2Proof/WellFormed.lean ====
section
/-! DEFINITION. Which terms of `Instr` stand for a command word: the count fits its 24-bit field (30_encoding.md R141). -/

namespace Sys2Proof

/-- The number of counts the 24-bit field `n` can hold (30_encoding.md R141: 0 ≤ n ≤ 2^24 − 1). -/
abbrev countLimit : Nat := 2 ^ 24

/-- The command has an encoding: a counted command's count fits the field (30_encoding.md R140, R141, R142). -/
def Instr.wellFormed : Instr → Bool
  | .nop => true
  | .srst => true
  | .calClear => true
  | .send => true
  | .recv => true
  | .mod n => decide (n < countLimit)
  | .demod n => decide (n < countLimit)
  | .rsInit => true
  | .rsRatio => true
  | .rsAdv n => decide (n < countLimit)

end Sys2Proof
end

