-- ==== Sys2Proof/Decode.lean ====
section
/-! DEFINITION. Decoding and encoding of command words (30_encoding.md R140 to R147).
The decoder is total on 64-bit values and rejects by name; the encoder is written from the same table. -/

namespace Sys2Proof

/-- Why a 64-bit value is no legal command word (30_encoding.md R144). All three end in cause ILLEGAL when the word is
accepted; the name only says which clause of R144 holds first. -/
inductive DecodeError
  /-- The field `rsv` (bits 63:32) is not 0. -/
  | reservedBits
  /-- The opcode is not one of the ten of R143. -/
  | reservedOpcode
  /-- The opcode names an uncounted command and the field `n` is not 0. -/
  | countOnUncounted
  deriving DecidableEq, Repr

/-- Field `op` = v[31:24] (30_encoding.md R141). -/
def opField (v : Word) : BitVec 8 := v.extractLsb' 24 8

/-- Field `n` = v[23:0], zero-extended (30_encoding.md R141). -/
def countField (v : Word) : Nat := (v.extractLsb' 0 24).toNat

/-- Field `rsv` = v[63:32] (30_encoding.md R141). -/
def rsvField (v : Word) : BitVec 32 := v.extractLsb' 32 32

/-- An uncounted command requires n = 0 (30_encoding.md R142, R147). -/
def uncounted (i : Instr) (n : Nat) : Except DecodeError Instr :=
  if n = 0 then .ok i else .error .countOnUncounted

/-- The decoding function, total on every 64-bit value (30_encoding.md R147). -/
def decodeWord (v : Word) : Except DecodeError Instr :=
  let n := countField v
  if rsvField v ≠ 0#32 then .error .reservedBits
  else if opField v = 0x00#8 then uncounted .nop n
  else if opField v = 0x01#8 then uncounted .srst n
  else if opField v = 0x02#8 then uncounted .calClear n
  else if opField v = 0x10#8 then uncounted .send n
  else if opField v = 0x11#8 then uncounted .recv n
  else if opField v = 0x20#8 then .ok (.mod n)
  else if opField v = 0x21#8 then .ok (.demod n)
  else if opField v = 0x30#8 then uncounted .rsInit n
  else if opField v = 0x31#8 then uncounted .rsRatio n
  else if opField v = 0x32#8 then .ok (.rsAdv n)
  else .error .reservedOpcode

/-- The opcode of a command (30_encoding.md R143). -/
def opcode : Instr → BitVec 8
  | .nop => 0x00#8
  | .srst => 0x01#8
  | .calClear => 0x02#8
  | .send => 0x10#8
  | .recv => 0x11#8
  | .mod _ => 0x20#8
  | .demod _ => 0x21#8
  | .rsInit => 0x30#8
  | .rsRatio => 0x31#8
  | .rsAdv _ => 0x32#8

/-- The count a command carries; 0 for an uncounted one (30_encoding.md R142). -/
def instrCount : Instr → Nat
  | .mod n => n
  | .demod n => n
  | .rsAdv n => n
  | .nop => 0
  | .srst => 0
  | .calClear => 0
  | .send => 0
  | .recv => 0
  | .rsInit => 0
  | .rsRatio => 0

/-- The command word: rsv = 0, the opcode, the count (30_encoding.md R140). -/
def encode (i : Instr) : Word :=
  (0#32 ++ opcode i) ++ BitVec.ofNat 24 (instrCount i)

/-- The command the decoder reads from an opcode-table row's bits, bit 0 the least significant bit of the word; the bits
above `nbits` are 0. A command word is one 64-bit word, so there is no later word and no byte order
(30_encoding.md R140, R146; 20_memory.md R103). -/
def decodeTableWord (nbits w : Nat) : Option Instr :=
  match decodeWord (BitVec.ofNat 64 (w % 2 ^ nbits)) with
  | .ok i => some i
  | .error _ => none

end Sys2Proof
end

