-- ==== Sys2Proof/Config.lean ====
section
/-! DEFINITION. What one hardware instance fixes: the OPEN parameters of 00_scope.md R9, the fixed ones, and the values
the spec leaves open. Every parameter a run needs is plain data, held in State, so that a statement about every state is a
statement about every instance (log entries 2 and 3); the values the spec gives no rule for are constants without a
body (log entries 6 and 9). -/

namespace Sys2Proof

/-- The capacities `DEPTH_p` of the seven stream ports (00_scope.md R9, 10_state.md R60). -/
structure Depths where
  byteIn : Nat
  byteOut : Nat
  smpOut : Nat
  smpIn : Nat
  symIn : Nat
  symOut : Nat
  dump : Nat
  deriving DecidableEq, Repr

/-- The OPEN implementation parameters (00_scope.md R9): table sizes and port depths. -/
structure Params where
  kMax : Nat
  bMax : Nat
  lMax : Nat
  depth : Depths
  deriving DecidableEq, Repr

/-- The ranges 00_scope.md R9 gives for the parameters. -/
def Params.ok (p : Params) : Bool :=
  decide (1 ≤ p.kMax) && decide (p.kMax ≤ 256) && decide (1 ≤ p.bMax) && decide (p.bMax ≤ 8) &&
  decide (1 ≤ p.lMax) && decide (p.lMax ≤ 4096) &&
  decide (1 ≤ p.depth.byteIn) && decide (1 ≤ p.depth.byteOut) && decide (1 ≤ p.depth.smpOut) &&
  decide (1 ≤ p.depth.smpIn) && decide (1 ≤ p.depth.symIn) && decide (1 ≤ p.depth.symOut) &&
  decide (1 ≤ p.depth.dump)

/-- The parameter `NUM` (00_scope.md R9, R12): the arithmetic of one implementation, any deterministic one, as far as a run
uses it. Each list pairs operands with what the implementation answers for them: `sums`, `differences`, `products` and
`quotients` the four operations on reals, `carrier` the waveform exp(j(2π·b·n/N + φ)) for ((b, n, N), φ), `turn` arg(z) / 2π
for z, `root` the square root. Operands that are not listed get the exact answer, or the model's default where that need not
be rational, a rational within about 2^-96 of it (log entry 2). -/
structure NumTable where
  sums : List ((Scalar × Scalar) × Scalar)
  differences : List ((Scalar × Scalar) × Scalar)
  products : List ((Scalar × Scalar) × Scalar)
  quotients : List ((Scalar × Scalar) × Scalar)
  carrier : List (((Nat × Nat × Nat) × Scalar) × Cx)
  turn : List (Cx × Scalar)
  root : List (Scalar × Scalar)
  deriving DecidableEq, Repr

/-- The arithmetic that overrides nothing. -/
def NumTable.plain : NumTable :=
  { sums := [], differences := [], products := [], quotients := [], carrier := [], turn := [], root := [] }

/-- Largest payload chunk in bytes (00_scope.md R9, 43_frame_tx.md R253). -/
def Config.chunkMax : Nat := 255

/-- The identity register's value (00_scope.md R1, 10_state.md R41). -/
def Config.idValue : Word := 0x00000001414D4F44#64

/-- The real a PCM byte unit is read as by a command that runs with PCM_EN = 0. The spec gives no rule (log entry 6). -/
opaque Config.pcmUnitAsReal : Byte → Scalar

/-- The byte a binary64 sample unit is read as by a command that runs with PCM_EN = 1. The spec gives no rule
(log entry 6). -/
opaque Config.realUnitAsByte : Word → Byte

/-- The pattern written for a real whose rounding to binary64 has no finite pattern. The spec states none (log entry 9). -/
opaque Config.patternOutOfRange : Scalar → Word

/-- Whether a negative real that rounds to 0 is written as −0.0 rather than +0.0. The spec does not say (log entry 9). -/
opaque Config.negativeZero : Scalar → Bool

end Sys2Proof
end

