-- ==== Sys2Proof/Machine/Real.lean ====
section
/-! DEFINITION. Real and complex arithmetic of the rules (00_scope.md R11, R12, R14): binary64 patterns, rounding, and the
operations of the instance's arithmetic. Comparisons, negation, floor and rounding are exact (log entry 1); every other
operation answers what the instance's `NumTable` says, else the exact value or a default close to it (log entry 2). -/

namespace Sys2Proof

/-! ### Complex numbers -/

/-- Complex conjugate. -/
def Cx.conj (a : Cx) : Cx := ⟨a.re, -a.im⟩

/-- The complex number 0. -/
def Cx.zero : Cx := ⟨0, 0⟩

/-- The complex number 1. -/
def Cx.one : Cx := ⟨1, 0⟩

/-! ### Rounding -/

/-- `roundHE(q)`: the nearest integer, ties to the even one (00_scope.md R11). -/
def roundHE (q : Scalar) : Int :=
  let f := q.floor
  let r := q - f
  if r < 1 / 2 then f
  else if 1 / 2 < r then f + 1
  else if f % 2 = 0 then f
  else f + 1

/-- `sat16(i)` (00_scope.md R11). -/
def sat16 (i : Int) : Int := min 32767 (max (-32768) i)

/-- 2^e for an integer e, exact. -/
def pow2 (e : Int) : Scalar :=
  if 0 ≤ e then ((2 ^ e.toNat : Nat) : Scalar) else 1 / ((2 ^ (-e).toNat : Nat) : Scalar)

/-! ### binary64 patterns (00_scope.md R14) -/

/-- The biased exponent of a binary64 pattern. -/
def f64Exp (w : Word) : Nat := (w.extractLsb' 52 11).toNat

/-- The fraction field of a binary64 pattern. -/
def f64Frac (w : Word) : Nat := (w.extractLsb' 0 52).toNat

/-- `f64(v)`: the real value of a finite pattern, none for an infinity or a NaN (00_scope.md R14). -/
def f64 (w : Word) : Option Scalar :=
  if f64Exp w = 2047 then none
  else
    let mag : Scalar :=
      if f64Exp w = 0 then (f64Frac w : Scalar) * pow2 (-1074)
      else ((2 ^ 52 + f64Frac w : Nat) : Scalar) * pow2 ((f64Exp w : Int) - 1075)
    some (if w.msb then -mag else mag)

/-- `f64(v)` where a non-finite pattern is read as 0: sample and symbol units (10_state.md R66), and configuration
registers, whose checks have refused a non-finite pattern (45_control.md R345). -/
def realOf (w : Word) : Scalar := (f64 w).getD 0

/-- The pattern is finite. -/
def finite (w : Word) : Bool := decide (f64Exp w ≠ 2047)

/-- The exponent e with 2^e ≤ q < 2^(e+1), for q > 0. -/
def floorLog2 (q : Scalar) : Int :=
  let e : Int := (Nat.log2 q.num.natAbs : Int) - (Nat.log2 q.den : Int)
  if pow2 e ≤ q then e else e - 1

/-- The number the magnitude bits of the binary64 pattern nearest to q > 0 stand for, ties to even; from the number of the
infinity's bits up there is no finite pattern (00_scope.md R14). -/
def f64Magnitude (q : Scalar) : Nat :=
  let e := max (floorLog2 q) (-1022)
  let m := (roundHE (q * pow2 (52 - e))).toNat
  (e + 1022).toNat * 2 ^ 52 + m

/-- The magnitude bits of an infinity. -/
def f64Infinite : Nat := 0x7FF0000000000000

/-- `bits64(x)`: the binary64 pattern nearest to the real x, ties to even (00_scope.md R14). Where no finite pattern is the
rounded value, from 2^1024 − 2^970 up, the pattern is free, and so is the sign of the zero a negative x rounds to
(log entry 9). -/
def bits64 (x : Scalar) : Word :=
  let m := f64Magnitude (if 0 < x then x else -x)
  if x = 0 then 0#64
  else if f64Infinite ≤ m then Config.patternOutOfRange x
  else if 0 < x then BitVec.ofNat 64 m
  else if m = 0 then (if Config.negativeZero x then 0x8000000000000000#64 else 0#64)
  else BitVec.ofNat 64 (2 ^ 63 + m)

/-! ### Defaults of the functions whose exact values need not be rational (log entry 2) -/

/-- ⌊π · 2^1200⌋. -/
def piScaled : Nat :=
  0x3243f6a8885a308d313198a2e03707344a4093822299f31d0082efa98ec4e6c89452821e638d01377be5466cf34e90c6cc0ac29b7c97c50dd3f84d5b5b54709179216d5d98979fb1bd1310ba698dfb5ac2ffd72dbd01adfb7b8e1afed6a267e96ba7c9045f12c7f9924a19947b3916cf70801f2e2858efc16636920d871574e69a458fea3f4933d7e0d95748f728eb658718bcd588215

/-- ⌊π · 2^128⌋. -/
def pi128 : Int := 0x3243f6a8885a308d313198a2e03707344

/-- ⌊arctan(1/2) · 2^128⌋. -/
def atanHalf128 : Int := 0x76b19c1586ed3da2b7f222f65e1d4681

/-- The unit of the fixed-point series below. -/
def one128 : Int := 2 ^ 128

/-- A value scaled by 2^128, rounded to the nearest multiple of 2^-96. -/
def grid96 (v : Int) : Scalar := ((v + 2 ^ 31) / 2 ^ 32 : Int) / ((2 ^ 96 : Nat) : Scalar)

/-- The cosine series at the square `x2` of an angle, both scaled by 2^128; `k` terms, last first. -/
def cosSeries (x2 : Int) : Nat → Nat → Int → Int
  | 0, _, acc => acc
  | f + 1, k, acc => cosSeries x2 f (k - 1) (one128 - acc * x2 / (one128 * ((2 * k - 1) * (2 * k) : Nat)))

/-- The sine series divided by its angle, as `cosSeries`. -/
def sinSeries (x2 : Int) : Nat → Nat → Int → Int
  | 0, _, acc => acc
  | f + 1, k, acc => sinSeries x2 f (k - 1) (one128 - acc * x2 / (one128 * ((2 * k) * (2 * k + 1) : Nat)))

/-- (cos, sin) of 2π·v for |v| ≤ 1/8; exact at v = 0. -/
def cisSmall (v : Scalar) : Cx :=
  if v = 0 then Cx.one
  else
    let x : Int := v.num * (2 * pi128) / (v.den : Int)
    let x2 := x * x / one128
    ⟨grid96 (cosSeries x2 20 20 one128), grid96 (x * sinSeries x2 20 20 one128 / one128)⟩

/-- exp(j·2π·u) for u in turns; exact where 4u is an integer. -/
def cisTurn (u : Scalar) : Cx :=
  let q := (4 * u + 1 / 2).floor
  let z := cisSmall (u - (q : Scalar) / 4)
  if q % 4 = 0 then z
  else if q % 4 = 1 then ⟨-z.im, z.re⟩
  else if q % 4 = 2 then ⟨-z.re, -z.im⟩
  else ⟨z.im, -z.re⟩

/-- φ / 2π modulo 1, on a grid of 2^-160; exact at φ = 0. -/
def turnsOfRadians (phi : Scalar) : Scalar :=
  if phi = 0 then 0
  else
    let u : Int := phi.num * (2 ^ 1360 : Nat) / ((phi.den * (2 * piScaled) : Nat) : Int)
    ((u % (2 ^ 160 : Nat) : Int) : Scalar) / ((2 ^ 160 : Nat) : Scalar)

/-- The default of `carrier`: exp(j(2π·t + φ)), t in turns and φ in radians. -/
def cisDefault (t phi : Scalar) : Cx := cisTurn (t + turnsOfRadians phi)

/-- The arctangent series divided by its argument, at the square `y2` of the argument; scaled by 2^128. -/
def atanSeries (y2 : Int) : Nat → Nat → Int → Int
  | 0, _, acc => acc
  | f + 1, k, acc => atanSeries y2 f (k - 1) (one128 / (2 * k - 1 : Nat) - acc * y2 / one128)

/-- arctan(y) for |y| ≤ 1/3, scaled by 2^128. -/
def atanSmall (y : Int) : Int := y * atanSeries (y * y / one128) 44 44 0 / one128

/-- arctan(r) / 2π for 0 ≤ r ≤ 1, r = p / q. -/
def atanTurn (r : Scalar) : Scalar :=
  let x : Int := r.num * one128 / (r.den : Int)
  let a := if 4 * x < one128 then atanSmall x
    else atanHalf128 + atanSmall ((2 * x - one128) * one128 / (2 * one128 + x))
  grid96 (a * one128 / (2 * pi128))

/-- The default of `turn`: arg(z) / 2π, from the octant of z; exact on the axes. -/
def turnDefault (z : Cx) : Scalar :=
  let ax := if z.re < 0 then -z.re else z.re
  let ay := if z.im < 0 then -z.im else z.im
  let a : Scalar :=
    if ay = 0 then 0
    else if ay ≤ ax then atanTurn (ay / ax)
    else 1 / 4 - (if ax = 0 then 0 else atanTurn (ax / ay))
  let b := if z.re < 0 then 1 / 2 - a else a
  if z.im < 0 then -b else b

/-- One bit after another of the integer square root of n: `i` bits still to settle, `r` settled so far. -/
def isqrtBits (n : Nat) : Nat → Nat → Nat
  | 0, r => r
  | i + 1, r => let c := r + 2 ^ i
    if c * c ≤ n then isqrtBits n i c else isqrtBits n i r

/-- The integer square root, rounded down. -/
def isqrt (n : Nat) : Nat := isqrtBits n (Nat.log2 n / 2 + 1) 0

/-- The default of `root` for q > 0: exact for a square of a rational, else rounded down with a relative error below
2^-96. -/
def rootDefault (q : Scalar) : Scalar :=
  let p := q.num.natAbs
  if isqrt p * isqrt p = p ∧ isqrt q.den * isqrt q.den = q.den then (isqrt p : Scalar) / (isqrt q.den : Scalar)
  else (isqrt (p * q.den * 4 ^ 96) : Scalar) / ((q.den * 2 ^ 96 : Nat) : Scalar)

/-! ### The instance's arithmetic

The rules leave open how an arithmetic that is not exact composes a sum of many terms and the complex operations: the formulas
below are a DESIGN CHOICE (log entry 1). -/

/-- The value a table lists for a key. -/
def tableAnswer {α β : Type} [DecidableEq α] : List (α × β) → α → Option β
  | [], _ => none
  | (a, b) :: t, k => if k = a then some b else tableAnswer t k

/-- a + b under the instance's arithmetic (00_scope.md R12; log entry 2). -/
def NumTable.add (num : NumTable) (a b : Scalar) : Scalar := (tableAnswer num.sums (a, b)).getD (a + b)
/-- a − b under the instance's arithmetic. -/
def NumTable.sub (num : NumTable) (a b : Scalar) : Scalar := (tableAnswer num.differences (a, b)).getD (a - b)
/-- a · b under the instance's arithmetic. -/
def NumTable.mul (num : NumTable) (a b : Scalar) : Scalar := (tableAnswer num.products (a, b)).getD (a * b)
/-- a / b under the instance's arithmetic. -/
def NumTable.div (num : NumTable) (a b : Scalar) : Scalar := (tableAnswer num.quotients (a, b)).getD (a / b)

/-- The sum of a sequence of reals, taken from its first element on; 0 for the empty one. -/
def NumTable.sum (num : NumTable) : List Scalar → Scalar
  | [] => 0
  | x :: xs => xs.foldl num.add x

/-- The product of two complex numbers. -/
def NumTable.cxMul (num : NumTable) (a b : Cx) : Cx :=
  ⟨num.sub (num.mul a.re b.re) (num.mul a.im b.im), num.add (num.mul a.re b.im) (num.mul a.im b.re)⟩

/-- A real multiple of a complex number. -/
def NumTable.cxScale (num : NumTable) (q : Scalar) (a : Cx) : Cx := ⟨num.mul q a.re, num.mul q a.im⟩

/-- A complex number divided by a real one. -/
def NumTable.cxDiv (num : NumTable) (a : Cx) (q : Scalar) : Cx := ⟨num.div a.re q, num.div a.im q⟩

/-- |z|². -/
def NumTable.normSq (num : NumTable) (a : Cx) : Scalar := num.add (num.mul a.re a.re) (num.mul a.im a.im)

/-- The sum of a sequence of complex numbers. -/
def NumTable.cxSum (num : NumTable) (zs : List Cx) : Cx := ⟨num.sum (zs.map Cx.re), num.sum (zs.map Cx.im)⟩

/-- Σ x². -/
def NumTable.energy (num : NumTable) (xs : List Scalar) : Scalar := num.sum (xs.map fun x => num.mul x x)

/-- Σ x·y. -/
def NumTable.innerProduct (num : NumTable) (xs ys : List Scalar) : Scalar := num.sum (List.zipWith num.mul xs ys)

/-- The fraction f of a read position q: q − ⌊q⌋ (40_resampler.md R174). -/
def NumTable.frac (num : NumTable) (q : Scalar) : Scalar := num.sub q (q.floor : Scalar)

/-- exp(j(2π·b·n/N + φ)) under the instance's arithmetic, for N = `len` (00_scope.md R12; 41_modulator.md R201;
log entry 2). -/
def NumTable.exp (num : NumTable) (b n len : Nat) (phi : Scalar) : Cx :=
  (tableAnswer num.carrier ((b, n, len), phi)).getD (cisDefault (((b * n : Nat) : Scalar) / (len : Scalar)) phi)

/-- The half-open range of arg(z) / 2π (00_scope.md R12: arg z is in (−π, π]). -/
def inTurn (a : Scalar) : Bool := decide (-1 / 2 < a) && decide (a ≤ 1 / 2)

/-- arg(z) / 2π under the instance's arithmetic, in (−1/2, 1/2]; arg 0 = 0 (00_scope.md R12; log entry 2). An answer
outside the range is none the spec allows and is not taken. -/
def NumTable.argTurn (num : NumTable) (z : Cx) : Scalar :=
  if z = Cx.zero then 0
  else
    match tableAnswer num.turn z with
    | some a => if inTurn a then a else 0
    | none => if inTurn (turnDefault z) then turnDefault z else 1 / 2

/-- The square root under the instance's arithmetic, for q > 0 a positive value (44_frame_rx.md R296; log entry 2). -/
def NumTable.sqrt (num : NumTable) (q : Scalar) : Scalar :=
  match tableAnswer num.root q with
  | some r => if 0 < r then r else 1
  | none => rootDefault q

/-- `wrap(a)` in turns: the value in (−1/2, 1/2] that differs from a by an integer (00_scope.md R12). The integer is exact,
the difference the instance's. -/
def NumTable.wrapTurn (num : NumTable) (a : Scalar) : Scalar := num.sub a ((a - 1 / 2).ceil : Scalar)

end Sys2Proof
end

