-- ==== Sys2Proof/Machine/State.lean ====
section
/-! DEFINITION. The machine's state as plain data: the registers of 10_state.md R40, the STATUS fields of R43, the stream
ports of R60, the engine mode and internal state of R85 to R88, and the model's own fields (the parameters, the arithmetic,
the host's pending transactions). -/

namespace Sys2Proof.Machine

/-- Why the machine stops with a fault. It has no constructor: the hardware has no trap (60_exceptions.md R379) and every
command end, error or not, is a next state with a cause code (R370, R374). Nothing raises it; it is safe. -/
inductive Fault
  deriving DecidableEq, Repr

/-- Why the model gives no next state. -/
inductive Refusal
  /-- Raised only by an arm of `exec` for an instruction that has no meaning yet; no arm is left that does. Safe: the model
  stops. -/
  | notModelled (mnemonic : String)
  deriving DecidableEq, Repr

/-- Cause codes (60_exceptions.md R370). Codes 6 to 15 are reserved and never held. -/
inductive Cause
  | none | noCarrier | truncated | illegal | badConfig | aborted
  deriving DecidableEq, Repr

/-- Receiver states (10_state.md R54). Codes 8 to 15 are reserved and never held. -/
inductive RxState
  | idle | searching | calibrating | receiving | confirming | done | truncated | noCarrier
  deriving DecidableEq, Repr

/-- STATUS but for BUSY, which is 1 exactly when the engine runs (10_state.md R43, R85). Reserved bits read 0. -/
structure Status where
  done : Bool
  result : Bool
  rej : Bool
  wign : Bool
  cause : Cause
  rx : RxState
  deriving DecidableEq, Repr

/-- The read-only progress registers (10_state.md R44 to R51), indices 3 to 0xB. -/
structure Progress where
  count : Word
  rxConsumed : Word
  rxBlocks : Word
  detOffset : Word
  detPeak : Word
  clkFreq : Word
  clkPhase : Word
  rsPos : Word
  rsRatio : Word
  deriving DecidableEq, Repr

/-- A table of registers by entry number: the entries that differ from the table's reset value, numbers strictly rising
(log entry 4). -/
abbrev Table (w : Nat) := List (Nat × BitVec w)

/-- The configuration registers and tables (10_state.md R70 to R79). CFG_TRAIN[t][k] is entry 256·t + k of `train`, as the
register map numbers it (R40). -/
structure Cfg where
  fs : BitVec 32
  n : BitVec 32
  k : BitVec 32
  b : BitVec 32
  ltrain : BitVec 32
  silStart : BitVec 32
  silStop : BitVec 32
  confirm : BitVec 32
  pilot : BitVec 32
  searchLimit : BitVec 32
  skip : BitVec 32
  /-- CFG_FLAGS: bit 0 DUMP_EN, bit 1 PCM_EN (R77). -/
  flags : BitVec 2
  thresh : Word
  kp : Word
  ki : Word
  ratio0 : Word
  pcmScale : Word
  bin : Table 32
  phref : Table 64
  constRe : Table 64
  constIm : Table 64
  train : Table 32
  deriving DecidableEq, Repr

/-- The calibration table (10_state.md R80). -/
structure Cal where
  re : Table 64
  im : Table 64
  deriving DecidableEq, Repr

/-- A sample unit (10_state.md R61): a binary64 pattern, or a byte of a PCM sample. -/
inductive SampleUnit
  | real (w : Word)
  | pcm (b : Byte)
  deriving DecidableEq, Repr

/-- A symbol unit: a pair of binary64 patterns (10_state.md R60). -/
structure SymbolUnit where
  re : Word
  im : Word
  deriving DecidableEq, Repr

/-- The seven stream ports (10_state.md R60), oldest unit first; input ports carry an end-of-stream mark. -/
structure Ports where
  byteIn : List Byte
  byteInEos : Bool
  byteOut : List Byte
  smpOut : List SampleUnit
  smpIn : List SampleUnit
  smpInEos : Bool
  symIn : List SymbolUnit
  symInEos : Bool
  symOut : List SymbolUnit
  dump : List SampleUnit
  deriving DecidableEq, Repr

/-- The resampler state (10_state.md R86). -/
structure Resampler where
  buf : List Scalar
  pos : Scalar
  ratio : Scalar
  deriving DecidableEq, Repr

/-- The receive side of the frame codec (10_state.md R85, R88) and the exact gains of the running RECV
(44_frame_rx.md R306, R312; log entry 8). -/
structure RxCodec where
  rbits : List Bool
  hdr : Bool
  remaining : Nat
  sentinel : Bool
  d : Nat
  d0 : Nat
  dbest : Nat
  cbest : Scalar
  gains : List Cx
  deriving DecidableEq, Repr

/-- The transmit side of the frame codec (10_state.md R88); the send phase is in `Phase`. -/
structure TxCodec where
  tbuf : List Byte
  tbits : List Bool
  deriving DecidableEq, Repr

/-- One observable action of the engine that its rules have already fixed (45_control.md R344): a push, a register write,
a port clean-up, or the command's end. -/
inductive Act
  /-- Push a unit to SMP_OUT (20_memory.md R108). -/
  | pushSmp (u : SampleUnit)
  /-- Push a unit to SYM_OUT. -/
  | pushSym (u : SymbolUnit)
  /-- Push a byte to BYTE_OUT. -/
  | pushByte (b : Byte)
  /-- COUNT <- COUNT + 1 (10_state.md R44). -/
  | countUp
  /-- RX_BLOCKS <- RX_BLOCKS + 1 (10_state.md R46). -/
  | blockUp
  /-- Track(v), z the pilot's calibrated symbol (42_demodulator.md R232). -/
  | track (z : Cx)
  /-- RXSTATE <- r. -/
  | setRx (r : RxState)
  /-- SEND's port clean-up (10_state.md R64). -/
  | clearByteIn
  /-- RECV's port clean-up (44_frame_rx.md R323). -/
  | clearSmpIn
  /-- The command's end (60_exceptions.md R374). -/
  | finish (c : Cause)
  deriving DecidableEq, Repr

/-- Where the executing command stands in its semantics rule, with that rule's local variables (10_state.md R85). -/
inductive Phase
  /-- RS_ADV, samples still to produce (40_resampler.md R172). -/
  | adv (left : Nat)
  /-- MOD, blocks still to produce and the symbols of the block so far (41_modulator.md R200). -/
  | mod (left : Nat) (syms : List Cx)
  /-- DEMOD, blocks still to produce and the window so far (42_demodulator.md R220). -/
  | demod (left : Nat) (win : List Scalar)
  /-- SEND, phase LEAD, samples of silence still to push (43_frame_tx.md R258). -/
  | lead (left : Nat)
  /-- SEND, phase PREAMBLE, the next training block. -/
  | preamble (t : Nat)
  /-- SEND, phase DATA, taking payload bytes. -/
  | data
  /-- SEND, phase DATA, framed bytes still to emit; `last` when they are the stream's last. -/
  | emit (queue : List Byte) (last : Bool)
  /-- SEND, phase DATA, padding the last block. -/
  | pad
  /-- SEND, phase TRAIL, samples of silence still to push. -/
  | trail (left : Nat)
  /-- RECV, samples still to skip (44_frame_rx.md R290). -/
  | skip (left : Nat)
  /-- RECV, threshold search (R300, first loop). -/
  | search
  /-- RECV, peak refinement (R300, second loop). -/
  | refine
  /-- RECV, CALIBRATING (R305 to R308). -/
  | calibrate
  /-- RECV, RECEIVING, the window so far (R312). -/
  | receive (win : List Scalar)
  /-- RECV, RECEIVING, the block's bits still to parse and the pilot's calibrated symbol (R312, R313). -/
  | rxBits (bits : List Bool) (pilot : Cx)
  /-- RECV, CONFIRMING, samples still to read (R318). -/
  | confirm (left : Nat)
  /-- Nothing is left but the actions already fixed. -/
  | closing
  deriving DecidableEq, Repr

/-- The engine mode `eng` (10_state.md R85): idle, or running a command, with the actions already fixed and the place in
the command's rule. -/
inductive Eng
  | idle
  | run (c : Instr) (todo : List Act) (ph : Phase)
  deriving DecidableEq, Repr

/-- The input ports (10_state.md R60). -/
inductive InPort
  | byteIn | smpIn | symIn
  deriving DecidableEq, Repr

/-- The output ports (10_state.md R60). -/
inductive OutPort
  | byteOut | smpOut | symOut | dump
  deriving DecidableEq, Repr

/-- What the outside does at one instant between two engine steps (20_memory.md R100, R106; 70_reset_and_hazards.md R400). -/
inductive HostTxn
  /-- The host does nothing. -/
  | pass
  /-- MemRead(i, 8). -/
  | read (i : Index)
  /-- MemWrite(i, 8, v). -/
  | write (i : Index) (v : Word)
  /-- HostPush(BYTE_IN, b). -/
  | pushByte (b : Byte)
  /-- HostPush(SMP_IN, u). -/
  | pushSmp (u : SampleUnit)
  /-- HostPush(SYM_IN, u). -/
  | pushSym (u : SymbolUnit)
  /-- HostEOS(p). -/
  | eos (p : InPort)
  /-- HostPop(p). -/
  | pop (p : OutPort)
  /-- The platform's reset event. -/
  | reset
  deriving DecidableEq, Repr

/-- What the last host transaction returned: the model's own field (log entry 7). -/
inductive Reply
  /-- Nothing to return. -/
  | none
  /-- The transaction was not performed (20_memory.md R106). -/
  | notPerformed
  | word (v : Word)
  | byte (b : Byte)
  | sample (u : SampleUnit)
  | symbol (u : SymbolUnit)
  deriving DecidableEq, Repr

/-- One turn of the interleaving: a host transaction, then at most `burst` engine steps (20_memory.md R116; log entry 5). -/
structure Turn where
  txn : HostTxn
  burst : Nat
  deriving DecidableEq, Repr

/-- The machine's state. `par`, `num`, `sched`, `burst` and `reply` are the model's own; everything else is the spec's. -/
structure State where
  par : Params
  num : NumTable
  sched : List Turn
  burst : Nat
  reply : Reply
  eng : Eng
  st : Status
  reg : Progress
  cfg : Cfg
  cal : Cal
  port : Ports
  rs : Resampler
  pcmLo : Option Byte
  rx : RxCodec
  tx : TxCodec
  deriving DecidableEq, Repr

/-- STATUS after reset (10_state.md R40: 0). -/
def Status.init : Status :=
  { done := false, result := false, rej := false, wign := false, cause := .none, rx := .idle }

/-- The progress registers after reset (10_state.md R40); RS_RATIO is binary64 1.0. -/
def Progress.init : Progress :=
  { count := 0, rxConsumed := 0, rxBlocks := 0, detOffset := 0, detPeak := 0, clkFreq := 0, clkPhase := 0, rsPos := 0,
    rsRatio := 0x3FF0000000000000#64 }

/-- The configuration after reset (10_state.md R40): 0, and CFG_RATIO0 = 1.0. -/
def Cfg.init : Cfg :=
  { fs := 0, n := 0, k := 0, b := 0, ltrain := 0, silStart := 0, silStop := 0, confirm := 0, pilot := 0,
    searchLimit := 0, skip := 0, flags := 0, thresh := 0, kp := 0, ki := 0, ratio0 := 0x3FF0000000000000#64,
    pcmScale := 0, bin := [], phref := [], constRe := [], constIm := [], train := [] }

/-- The calibration table after reset: every entry 1 + 0j (10_state.md R80). -/
def Cal.init : Cal := { re := [], im := [] }

/-- Every port empty, every mark 0 (10_state.md R90). -/
def Ports.init : Ports :=
  { byteIn := [], byteInEos := false, byteOut := [], smpOut := [], smpIn := [], smpInEos := false, symIn := [],
    symInEos := false, symOut := [], dump := [] }

/-- The resampler after reset: buffer empty, position 0, ratio 1 (10_state.md R90). -/
def Resampler.init : Resampler := { buf := [], pos := 0, ratio := 1 }

/-- The receive codec after reset (10_state.md R90). -/
def RxCodec.init : RxCodec :=
  { rbits := [], hdr := true, remaining := 0, sentinel := false, d := 0, d0 := 0, dbest := 0, cbest := 0, gains := [] }

/-- The transmit codec after reset (10_state.md R90). -/
def TxCodec.init : TxCodec := { tbuf := [], tbits := [] }

/-- The state after reset of the instance with parameters `p`, arithmetic `num` and the host transactions `sched` still to
come (10_state.md R90; 70_reset_and_hazards.md R400). -/
def State.resetOf (p : Params) (num : NumTable) (sched : List Turn) (burst : Nat) : State :=
  { par := p, num := num, sched := sched, burst := burst, reply := .none, eng := .idle, st := .init, reg := .init,
    cfg := .init, cal := .init, port := .init, rs := .init, pcmLo := none, rx := .init, tx := .init }

/-- The parameters `State.reset` stands for: the largest tables R9 allows, 65536 units a port (DESIGN CHOICE, log entry 3). -/
def Params.sample : Params :=
  { kMax := 256, bMax := 8, lMax := 4096,
    depth := { byteIn := 65536, byteOut := 65536, smpOut := 65536, smpIn := 65536, symIn := 65536, symOut := 65536,
               dump := 65536 } }

/-- The machine right after reset, no host transaction pending. Every field of the spec is at the value the spec gives
(10_state.md R90); the parameters, the arithmetic and the burst are DESIGN CHOICES (log entries 2, 3 and 5). -/
def State.reset : State := State.resetOf Params.sample NumTable.plain [] 1000000

end Sys2Proof.Machine
end

