-- ==== Sys2Proof/Machine/Ops.lean ====
section
/-! DEFINITION. The named operations every rule shares: register tables, the command's acceptance, rejection and end
(the hardware's only form of an exception, 60_exceptions.md), the stream ports, the resampler's mirrored registers, and the
session reset. -/

namespace Sys2Proof.Machine

/-! ### Register tables -/

/-- Entry `i` of a table whose reset value is `d`. -/
def Table.get {w : Nat} (d : BitVec w) : Table w → Nat → BitVec w
  | [], _ => d
  | (a, v) :: t, i => if i = a then v else Table.get d t i

/-- Writes entry `i`, keeping the canonical form: numbers strictly rising, no entry equal to the reset value `d`. -/
def Table.put {w : Nat} (d : BitVec w) : Table w → Nat → BitVec w → Table w
  | [], i, v => if v = d then [] else [(i, v)]
  | (a, x) :: t, i, v =>
    if i < a then (if v = d then (a, x) :: t else (i, v) :: (a, x) :: t)
    else if i = a then (if v = d then t else (i, v) :: t)
    else (a, x) :: Table.put d t i v

/-- The canonical form, above a lower bound of the entry numbers. -/
def Table.wfFrom {w : Nat} (d : BitVec w) : Nat → Table w → Bool
  | _, [] => true
  | lo, (a, v) :: t => decide (lo ≤ a) && decide (v ≠ d) && Table.wfFrom d (a + 1) t

/-- The canonical form: entry numbers strictly rising, no entry equal to the reset value. -/
def Table.wf {w : Nat} (d : BitVec w) (t : Table w) : Bool := Table.wfFrom d 0 t

/-- Writes the reset value to every entry below `n`. -/
def Table.resetBelow {w : Nat} (n : Nat) (t : Table w) : Table w := t.filter fun c => decide (n ≤ c.1)

/-- binary64 1.0, the reset value of CAL_RE (10_state.md R40). -/
abbrev f64One : Word := 0x3FF0000000000000#64

/-! ### The engine mode and the command's life -/

/-- STATUS.BUSY: 1 exactly when the engine runs (10_state.md R85). -/
def State.busy (s : State) : Bool :=
  match s.eng with
  | .idle => false
  | .run _ _ _ => true

/-- The engine goes on with these fixed actions and then this phase, in the command it executes. -/
def State.load (s : State) (todo : List Act) (ph : Phase) : State :=
  match s.eng with
  | .idle => s
  | .run c _ _ => { s with eng := .run c todo ph }

/-- Acceptance of a command while idle, before the legality test (45_control.md R341): BUSY 1, DONE, RESULT and CAUSE 0,
COUNT 0; REJ and WIGN stay. -/
def State.accept (s : State) (c : Instr) : State :=
  { s with
    eng := .run c [] .closing
    st := { s.st with done := false, result := false, cause := .none }
    reg := { s.reg with count := 0 } }

/-- The command's end, `finish()` for NONE and `raise Cause(c)` otherwise: the one form an exception takes here
(60_exceptions.md R374, R379). The four STATUS fields and `eng` change in one step. -/
def State.endWith (s : State) (c : Cause) : State :=
  { s with eng := .idle, st := { s.st with done := true, result := decide (c = .none), cause := c } }

/-- A CTRL write while busy that is not the SRST word (45_control.md R342). -/
def State.reject (s : State) : State := { s with st := { s.st with rej := true } }

/-- A register write that is ignored (10_state.md R57, R58). -/
def State.ignored (s : State) : State := { s with st := { s.st with wign := true } }

/-- Issue of a legal command word (45_control.md R340, R341, R342, R345): rejected while busy; else accepted, its checks
made, and on success its semantics rule begun by `start`. -/
def State.issue (s : State) (c : Instr) (check : State → Bool) (start : State → State) : State :=
  if s.busy then s.reject
  else if check (s.accept c) then start (s.accept c)
  else (s.accept c).endWith .badConfig

/-- Issue of an illegal word (30_encoding.md R144; 45_control.md R341, R342; 60_exceptions.md R371). `eng` = RUN never
shows: the acceptance and the end are one step. -/
def State.issueIllegal (s : State) : State :=
  if s.busy then s.reject else (s.accept .nop).endWith .illegal

/-! ### Counters -/

/-- COUNT <- COUNT + 1, modulo 2^64 (10_state.md R44; 00_scope.md R13). -/
def State.countUp (s : State) : State := { s with reg := { s.reg with count := s.reg.count + 1 } }

/-- RX_BLOCKS <- RX_BLOCKS + 1, modulo 2^64 (10_state.md R46). -/
def State.blockUp (s : State) : State := { s with reg := { s.reg with rxBlocks := s.reg.rxBlocks + 1 } }

/-- RXSTATE <- r (10_state.md R55). -/
def State.setRx (s : State) (r : RxState) : State := { s with st := { s.st with rx := r } }

/-! ### The resampler's registers -/

/-- `rs.pos` <- q and its mirror RS_POS, in the same step (10_state.md R51). -/
def State.setPos (s : State) (q : Scalar) : State :=
  { s with rs := { s.rs with pos := q }, reg := { s.reg with rsPos := bits64 q } }

/-- `rs.ratio` <- r, its mirror RS_RATIO and CLK_FREQ, in the same step (10_state.md R49, R51). -/
def State.setRatio (s : State) (r : Scalar) : State :=
  { s with
    rs := { s.rs with ratio := r }
    reg := { s.reg with rsRatio := bits64 r, clkFreq := bits64 (s.num.sub r 1) } }

/-- CLK_PHASE <- bits64(τ) (10_state.md R50). -/
def State.setPhase (s : State) (tau : Scalar) : State := { s with reg := { s.reg with clkPhase := bits64 tau } }

/-- `rs.buf` <- empty. -/
def State.clearBuf (s : State) : State := { s with rs := { s.rs with buf := [] } }

/-- A sample taken from SMP_IN is appended to `rs.buf` (40_resampler.md R173). -/
def State.appendSample (s : State) (x : Scalar) : State := { s with rs := { s.rs with buf := s.rs.buf ++ [x] } }

/-- The resampler's read of index i of `rs.buf`; an index below 0 reads as 0 (40_resampler.md R173). The caller has taken
the samples up to i. -/
def Resampler.at (r : Resampler) (i : Int) : Scalar := if i < 0 then 0 else (r.buf[i.toNat]?).getD 0

/-! ### Engine pops and pushes -/

/-- What a `Pop` came to (20_memory.md R107): a hold, end of stream, or a unit and the state after it was taken. -/
inductive Taken (α : Type)
  | hold
  | eos
  | got (a : α) (s : State)
  deriving Repr

/-- Pop(BYTE_IN) (20_memory.md R107). -/
def State.popByte (s : State) : Taken Byte :=
  match s.port.byteIn with
  | [] => if s.port.byteInEos then .eos else .hold
  | b :: rest => .got b { s with port := { s.port with byteIn := rest } }

/-- Pop(SYM_IN) (20_memory.md R107). -/
def State.popSym (s : State) : Taken SymbolUnit :=
  match s.port.symIn with
  | [] => if s.port.symInEos then .eos else .hold
  | u :: rest => .got u { s with port := { s.port with symIn := rest } }

/-- The engine mirrors the units it takes from SMP_IN: CFG_FLAGS.DUMP_EN (10_state.md R77). -/
def State.dumpEn (s : State) : Bool := s.cfg.flags.getLsbD 0

/-- CFG_FLAGS.PCM_EN (10_state.md R77). -/
def State.pcmEn (s : State) : Bool := s.cfg.flags.getLsbD 1

/-- Pop(SMP_IN) (20_memory.md R107). In a RECV (`recv`) the unit is counted in RX_CONSUMED and, with DUMP_EN = 1, pushed
unchanged to DUMP in the same step; the engine holds while DUMP is full (44_frame_rx.md R325, R326). -/
def State.popSmp (s : State) (recv : Bool) : Taken SampleUnit :=
  match s.port.smpIn with
  | [] => if s.port.smpInEos then .eos else .hold
  | u :: rest =>
    if recv then
      if s.dumpEn && decide (s.par.depth.dump ≤ s.port.dump.length) then .hold
      else .got u { s with
        port := { s.port with smpIn := rest, dump := if s.dumpEn then s.port.dump ++ [u] else s.port.dump }
        reg := { s.reg with rxConsumed := s.reg.rxConsumed + 1 } }
    else .got u { s with port := { s.port with smpIn := rest } }

/-- Push(SMP_OUT, u) (20_memory.md R108); none while the port is full: the engine holds. -/
def State.pushSmp (s : State) (u : SampleUnit) : Option State :=
  if s.port.smpOut.length < s.par.depth.smpOut then some { s with port := { s.port with smpOut := s.port.smpOut ++ [u] } }
  else none

/-- Push(SYM_OUT, u) (20_memory.md R108). -/
def State.pushSym (s : State) (u : SymbolUnit) : Option State :=
  if s.port.symOut.length < s.par.depth.symOut then some { s with port := { s.port with symOut := s.port.symOut ++ [u] } }
  else none

/-- Push(BYTE_OUT, b) (20_memory.md R108). -/
def State.pushByte (s : State) (b : Byte) : Option State :=
  if s.port.byteOut.length < s.par.depth.byteOut then
    some { s with port := { s.port with byteOut := s.port.byteOut ++ [b] } }
  else none

/-! ### Port clean-up and the session reset -/

/-- SEND's clean-up: empty BYTE_IN, clear its mark (10_state.md R64). -/
def State.clearByteIn (s : State) : State := { s with port := { s.port with byteIn := [], byteInEos := false } }

/-- RECV's clean-up: empty SMP_IN, clear its mark, discard the pending PCM byte (10_state.md R64; 44_frame_rx.md R323). -/
def State.clearSmpIn (s : State) : State :=
  { s with port := { s.port with smpIn := [], smpInEos := false }, pcmLo := none }

/-- The SRST effects, for both its cases (45_control.md R351; 10_state.md R65). Configuration, tables and CAL are kept. -/
def State.sessionReset (s : State) : State :=
  { s with
    port := .init
    pcmLo := none
    rs := .init
    reg := .init
    rx := .init
    tx := .init
    st := { s.st with rej := false, wign := false, rx := .idle } }

/-- The reset event (70_reset_and_hazards.md R400): every piece of the spec's state at its reset value, whatever was
executing. The instance and the host's transactions still to come stay. -/
def State.hardReset (s : State) : State := State.resetOf s.par s.num s.sched s.burst

end Sys2Proof.Machine
end

