-- ==== Sys2Proof/Machine/Operands.lean ====
section
/-! DEFINITION. The operands of the commands. A command's operands are the configuration registers, the CAL table and the
port units (30_encoding.md R141). The engine reads a configuration register at command start and holds its value
(45_control.md R345); host writes are ignored while it is busy (10_state.md R57), so the accessors below read the register
itself. Also the bit orders of payload (20_memory.md R110, R111) and the sample formats (R112 to R114). -/

namespace Sys2Proof.Machine

/-! ### Configuration -/

/-- N, samples per symbol (10_state.md R71). -/
def State.nSym (s : State) : Nat := s.cfg.n.toNat
/-- K, active carriers (R72). -/
def State.nCar (s : State) : Nat := s.cfg.k.toNat
/-- B, bits per carrier (R73). -/
def State.nBit (s : State) : Nat := s.cfg.b.toNat
/-- L, training blocks (R74). -/
def State.nTrain (s : State) : Nat := s.cfg.ltrain.toNat
/-- P = L·N, samples of the preamble (R74). -/
def State.nPre (s : State) : Nat := s.nTrain * s.nSym
/-- K·B, bits per block (R73). -/
def State.blockBits (s : State) : Nat := s.nCar * s.nBit
/-- The pilot's index (R76). -/
def State.pilot (s : State) : Nat := s.cfg.pilot.toNat
/-- W, the search bound (R76). -/
def State.searchLimit (s : State) : Nat := s.cfg.searchLimit.toNat
/-- θ (R78). -/
def State.theta (s : State) : Scalar := realOf s.cfg.thresh
/-- k_P (R78). -/
def State.kP (s : State) : Scalar := realOf s.cfg.kp
/-- k_I (R78). -/
def State.kI (s : State) : Scalar := realOf s.cfg.ki
/-- The ratio RS_INIT and RS_RATIO load (R78). -/
def State.ratio0 (s : State) : Scalar := realOf s.cfg.ratio0
/-- σ, the PCM scale (R78). -/
def State.sigma (s : State) : Scalar := realOf s.cfg.pcmScale

/-- CFG_BIN[k] (R79). -/
def State.bin (s : State) (k : Nat) : Nat := (Table.get 0 s.cfg.bin k).toNat
/-- φ_k in radians (R79). -/
def State.phref (s : State) (k : Nat) : Scalar := realOf (Table.get 0 s.cfg.phref k)
/-- The constellation point Q(i) (R79). -/
def State.point (s : State) (i : Nat) : Cx :=
  ⟨realOf (Table.get 0 s.cfg.constRe i), realOf (Table.get 0 s.cfg.constIm i)⟩
/-- CFG_TRAIN[t][k] (R79). -/
def State.trainIndex (s : State) (t k : Nat) : Nat := (Table.get 0 s.cfg.train (256 * t + k)).toNat
/-- T_{t,k} = Q(CFG_TRAIN[t][k]), the training symbol (41_modulator.md R206). -/
def State.trainSymbol (s : State) (t k : Nat) : Cx := s.point (s.trainIndex t k)
/-- The training block T_t (41_modulator.md R206). -/
def State.trainBlock (s : State) (t : Nat) : List Cx := (List.range s.nCar).map (s.trainSymbol t)
/-- The CAL table's gain of carrier k (10_state.md R80; 42_demodulator.md R227). -/
def State.calGain (s : State) (k : Nat) : Cx :=
  ⟨realOf (Table.get f64One s.cal.re k), realOf (Table.get 0 s.cal.im k)⟩
/-- The CAL table's gains of carriers 0 to K − 1. -/
def State.calGains (s : State) : List Cx := (List.range s.nCar).map s.calGain

/-! ### Bits, bytes and constellation indices -/

/-- The number whose bits are `bits`, the first the least significant (20_memory.md R110, R111). -/
def natOfBits : List Bool → Nat
  | [] => 0
  | b :: bs => (if b then 1 else 0) + 2 * natOfBits bs

/-- The `n` least significant bits of a number, the least significant first (20_memory.md R110, R111). -/
def bitsOfNat : Nat → Nat → List Bool
  | 0, _ => []
  | n + 1, v => (v % 2 == 1) :: bitsOfNat n (v / 2)

/-- A payload byte's eight bits, least significant first (20_memory.md R110). -/
def bitsOfByte (b : Byte) : List Bool := bitsOfNat 8 b.toNat

/-- The byte of eight received bits (20_memory.md R110). -/
def byteOfBits (bs : List Bool) : Byte := BitVec.ofNat 8 (natOfBits bs)

/-- The constellation indices of one block's bits, B bits a carrier, carrier 0 first (20_memory.md R111). -/
def blockIndices (b : Nat) : Nat → List Bool → List Nat
  | 0, _ => []
  | k + 1, bits => natOfBits (bits.take b) :: blockIndices b k (bits.drop b)

/-- The symbols of one block's bits (43_frame_tx.md R257, R258 EmitBlock). -/
def State.blockSymbols (s : State) (bits : List Bool) : List Cx := (blockIndices s.nBit s.nCar bits).map s.point

/-! ### Sample units -/

/-- The real a unit of SMP_IN is read as with PCM_EN = 0; a non-finite pattern reads as 0 (20_memory.md R109,
10_state.md R66). A byte unit is no binary64 pattern: its value is free (log entry 6). -/
def SampleUnit.asReal : SampleUnit → Scalar
  | .real w => realOf w
  | .pcm b => Config.pcmUnitAsReal b

/-- The byte a unit of SMP_IN is read as with PCM_EN = 1 (20_memory.md R114). A binary64 unit is no byte: its value is
free (log entry 6). -/
def SampleUnit.asByte : SampleUnit → Byte
  | .pcm b => b
  | .real w => Config.realUnitAsByte w

/-- A symbol unit's value, a non-finite half read as 0 (10_state.md R66). -/
def SymbolUnit.value (u : SymbolUnit) : Cx := ⟨realOf u.re, realOf u.im⟩

/-- The symbol unit of a complex value (42_demodulator.md R220). -/
def symbolUnit (z : Cx) : SymbolUnit := ⟨bits64 z.re, bits64 z.im⟩

/-- The 16-bit pattern of a real sample x at scale σ: rounded half to even, saturated (20_memory.md R113). -/
def pcmPattern (num : NumTable) (sigma x : Scalar) : BitVec 16 := BitVec.ofInt 16 (sat16 (roundHE (num.mul x sigma)))

/-- The real of a low and a high PCM byte at scale σ (20_memory.md R114). -/
def pcmValue (num : NumTable) (sigma : Scalar) (lo hi : Byte) : Scalar :=
  num.div (((hi ++ lo).toInt : Int) : Scalar) sigma

/-- The units `PushSample(x)` pushes: one binary64 pattern, or two PCM bytes, low byte first (20_memory.md R109, R113). -/
def State.sampleUnits (s : State) (x : Scalar) : List SampleUnit :=
  if s.pcmEn then
    [.pcm ((pcmPattern s.num s.sigma x).extractLsb' 0 8), .pcm ((pcmPattern s.num s.sigma x).extractLsb' 8 8)]
  else [.real (bits64 x)]

/-- `PushSample(x)` as engine actions, one push a unit. -/
def State.pushSampleActs (s : State) (x : Scalar) : List Act := (s.sampleUnits x).map .pushSmp

/-! ### Taking a sample -/

/-- What one engine step towards a needed sample came to. -/
inductive Fetch
  /-- The samples are there. -/
  | ready
  /-- The engine holds. -/
  | hold
  /-- The input is exhausted: UNAVAILABLE (40_resampler.md R173). -/
  | eos
  /-- A unit was taken. -/
  | progress (s : State)
  deriving Repr

/-- One unit of `PopSample()` (20_memory.md R109, R114): none in the answer when it was a PCM sample's low byte, which
waits in `pcm_lo` for its high byte. -/
def State.popSample (s : State) (recv : Bool) : Taken (Option Scalar) :=
  match s.popSmp recv with
  | .hold => .hold
  | .eos => .eos
  | .got u t =>
    if s.pcmEn then
      match s.pcmLo with
      | none => .got none { t with pcmLo := some u.asByte }
      | some lo => .got (some (pcmValue s.num s.sigma lo u.asByte)) { t with pcmLo := none }
    else .got (some u.asReal) t

/-- One step of the loop of `Y(i)` (40_resampler.md R173; 20_memory.md R122): a sample is taken only while `rs.buf` does
not reach index `i`. -/
def State.fetch (s : State) (recv : Bool) (i : Int) : Fetch :=
  if i < (s.rs.buf.length : Int) then .ready
  else
    match s.popSample recv with
    | .hold => .hold
    | .eos => .eos
    | .got none t => .progress t
    | .got (some x) t => .progress (t.appendSample x)

end Sys2Proof.Machine
end

