-- ==== Sys2Proof/Machine/Checks.lean ====
section
/-! DEFINITION. The configuration checks (45_control.md R345 to R355). -/

namespace Sys2Proof.Machine

/-- A predicate holds of every number below n. -/
def allBelow (n : Nat) (p : Nat → Bool) : Bool := (List.range n).all p

/-- No two numbers below n have the same image. -/
def distinctBelow {α : Type} [DecidableEq α] (n : Nat) (f : Nat → α) : Bool :=
  allBelow n fun i => allBelow i fun j => decide (f i ≠ f j)

/-- Carrier check (45_control.md R346). -/
def State.carrierCheck (s : State) : Bool :=
  decide (1 ≤ s.nCar) && decide (s.nCar ≤ s.par.kMax) &&
  allBelow s.nCar (fun k => decide (1 ≤ s.bin k) && decide (2 * s.bin k < s.nSym)) &&
  distinctBelow s.nCar s.bin &&
  allBelow s.nCar fun k => finite (Table.get 0 s.cfg.phref k)

/-- Constellation check (45_control.md R347). -/
def State.constellationCheck (s : State) : Bool :=
  decide (1 ≤ s.nBit) && decide (s.nBit ≤ s.par.bMax) &&
  allBelow (2 ^ s.nBit) (fun i => finite (Table.get 0 s.cfg.constRe i) && finite (Table.get 0 s.cfg.constIm i)) &&
  distinctBelow (2 ^ s.nBit) s.point

/-- A gain register is finite and in [0, 1]. -/
def gainOk (w : Word) : Bool := finite w && decide (0 ≤ realOf w) && decide (realOf w ≤ 1)

/-- A register is finite and positive. -/
def positive (w : Word) : Bool := finite w && decide (0 < realOf w)

/-- Demodulator check but for the CAL entries (45_control.md R348). -/
def State.demodCheck (s : State) : Bool :=
  decide (s.pilot < s.nCar) && gainOk s.cfg.kp && gainOk s.cfg.ki

/-- The CAL entries of the demodulator check, for DEMOD only (45_control.md R348). -/
def State.calCheck (s : State) : Bool :=
  allBelow s.nCar fun k => finite (Table.get f64One s.cal.re k) && finite (Table.get 0 s.cal.im k)

/-- PCM check, applied only with PCM_EN = 1 (45_control.md R349). -/
def State.pcmCheck (s : State) : Bool := !s.pcmEn || positive s.cfg.pcmScale

/-- Ratio check (45_control.md R349). -/
def State.ratioCheck (s : State) : Bool := positive s.cfg.ratio0

/-- Training check (45_control.md R353). -/
def State.trainingCheck (s : State) : Bool :=
  decide (1 ≤ s.nTrain) && decide (s.nTrain ≤ s.par.lMax) &&
  allBelow s.nTrain fun t => allBelow s.nCar fun k => decide (s.trainIndex t k < 2 ^ s.nBit)

/-- Receiver check (45_control.md R354). -/
def State.receiverCheck (s : State) : Bool :=
  positive s.cfg.thresh && decide (s.theta ≤ 1) && decide (1 ≤ s.searchLimit) &&
  decide (s.cfg.confirm.toNat ≤ s.cfg.silStop.toNat)

/-- The checks of a command, in the order of 45_control.md R355. -/
def State.checks (s : State) : Instr → Bool
  | .nop => true
  | .srst => true
  | .calClear => true
  | .mod _ => s.carrierCheck && s.pcmCheck
  | .demod _ => s.carrierCheck && s.constellationCheck && s.demodCheck && s.calCheck && s.pcmCheck
  | .rsInit => s.ratioCheck
  | .rsRatio => s.ratioCheck
  | .rsAdv _ => s.pcmCheck
  | .send => s.carrierCheck && s.constellationCheck && s.trainingCheck && s.pcmCheck
  | .recv =>
    s.carrierCheck && s.constellationCheck && s.demodCheck && s.trainingCheck && s.receiverCheck && s.pcmCheck

end Sys2Proof.Machine
end

