-- ==== Sys2Proof/Machine/Modulator.lean ====
section
/-! DEFINITION. The tone modulator (41_modulator.md R201 to R206) and the engine steps of MOD (R200). -/

namespace Sys2Proof.Machine

/-- exp(j(2π·b_k·n/N + φ_k)), carrier k's reference waveform at sample n of a block (41_modulator.md R201). -/
def State.carrier (s : State) (k n : Nat) : Cx :=
  s.num.exp (s.bin k) n s.nSym (s.phref k)

/-- Sample n of the block of symbols `syms`, carrier 0 first (41_modulator.md R201). -/
def State.synthAt (s : State) (syms : List Cx) (n : Nat) : Scalar :=
  s.num.sum (syms.zipIdx.map fun p => (s.num.cxMul p.1 (s.carrier p.2 n)).re)

/-- Synth(s): the N samples of one block (41_modulator.md R201). -/
def State.synth (s : State) (syms : List Cx) : List Scalar := (List.range s.nSym).map (s.synthAt syms)

/-- Modulate: the blocks' samples, concatenated in order (41_modulator.md R203). -/
def State.modulate (s : State) (blocks : List (List Cx)) : List Scalar := blocks.flatMap s.synth

/-- The preamble, Modulate(T_0, ..., T_{L−1}) (41_modulator.md R206; 44_frame_rx.md R295). -/
def State.preamble (s : State) : List Scalar := s.modulate ((List.range s.nTrain).map s.trainBlock)

/-- The pushes of one block by MOD, and its count (41_modulator.md R200). -/
def State.modBlockActs (s : State) (syms : List Cx) : List Act :=
  (s.synth syms).flatMap s.pushSampleActs ++ [.countUp]

/-- One engine step of MOD with `left` blocks still to produce and `syms` taken of the next (41_modulator.md R200). -/
def State.stepMod (s : State) (left : Nat) (syms : List Cx) : Option State :=
  match left with
  | 0 => some (s.endWith .none)
  | more + 1 =>
    match s.popSym with
    | .hold => none
    | .eos => some (s.endWith .none)
    | .got u t =>
      let all := syms ++ [u.value]
      if s.nCar ≤ all.length then some (t.load (s.modBlockActs all) (.mod more []))
      else some (t.load [] (.mod left all))

end Sys2Proof.Machine
end

