-- ==== Sys2Proof/Machine/Resampler.lean ====
section
/-! DEFINITION. The interpolating resampler (40_resampler.md R173 to R176) and the engine steps of RS_ADV (R172). -/

namespace Sys2Proof.Machine

/-- The highest index of `rs.buf` the kernel reads at position q: ⌊q⌋, or ⌊q⌋ + 1 when f is not 0
(40_resampler.md R174). -/
def interpNeed (num : NumTable) (q : Scalar) : Int := if num.frac q = 0 then q.floor else q.floor + 1

/-- Linear interpolation at position q, the samples it needs being there (40_resampler.md R174). -/
def Resampler.interp (r : Resampler) (num : NumTable) (q : Scalar) : Scalar :=
  let j := q.floor
  let f := num.frac q
  if f = 0 then r.at j else num.add (num.mul (num.sub 1 f) (r.at j)) (num.mul f (r.at (j + 1)))

/-- The index the next `RsStep()` reads up to (40_resampler.md R175). -/
def State.rsNeed (s : State) : Int := interpNeed s.num s.rs.pos

/-- The value of `RsStep()` when its samples are there (40_resampler.md R175). -/
def State.rsValue (s : State) : Scalar := s.rs.interp s.num s.rs.pos

/-- The state after `RsStep()` when its samples are there: the position advances by the ratio, RS_POS follows
(40_resampler.md R175). -/
def State.rsStep (s : State) : State := s.setPos (s.num.add s.rs.pos s.rs.ratio)

/-- One engine step of RS_ADV with `left` samples still to produce (40_resampler.md R172). -/
def State.stepAdv (s : State) : Nat → Option State
  | 0 => some (s.endWith .none)
  | left + 1 =>
    match s.fetch false s.rsNeed with
    | .hold => none
    | .eos => some (s.endWith .none)
    | .progress t => some t
    | .ready => some (s.rsStep.load (s.pushSampleActs s.rsValue ++ [.countUp]) (.adv left))

end Sys2Proof.Machine
end

