-- ==== Sys2Proof/Machine/Demodulator.lean ====
section
/-! DEFINITION. The tone demodulator: projection, calibration, slicer and tracking loop (42_demodulator.md R221 to R232),
and the engine steps of DEMOD (R220). -/

namespace Sys2Proof.Machine

/-- Proj_k(w) (42_demodulator.md R221). -/
def State.proj (s : State) (w : List Scalar) (k : Nat) : Cx :=
  s.num.cxScale (s.num.div 2 (s.nSym : Scalar))
    (s.num.cxSum (w.zipIdx.map fun p => s.num.cxScale p.1 (s.carrier k p.2).conj))

/-- Proj(w), carrier 0 first (42_demodulator.md R221). -/
def State.projAll (s : State) (w : List Scalar) : List Cx := (List.range s.nCar).map (s.proj w)

/-- The calibrated symbols v_k = g_k · Proj_k(w) (42_demodulator.md R227). -/
def State.calibrated (s : State) (gains : List Cx) (w : List Scalar) : List Cx :=
  List.zipWith s.num.cxMul gains (s.projAll w)

/-- |v − Q(i)|² (42_demodulator.md R229). -/
def State.pointDistance (s : State) (v : Cx) (i : Nat) : Scalar :=
  s.num.normSq ⟨s.num.sub v.re (s.point i).re, s.num.sub v.im (s.point i).im⟩

/-- The least index below `n + 1` at the smallest distance from v; ties go to the lower index. -/
def State.nearest (s : State) (v : Cx) : Nat → Nat
  | 0 => 0
  | n + 1 =>
    let m := s.nearest v n
    if s.pointDistance v (n + 1) < s.pointDistance v m then n + 1 else m

/-- Slice(v) over the 2^B points (42_demodulator.md R229). -/
def State.slice (s : State) (v : Cx) : Nat := s.nearest v (2 ^ s.nBit - 1)

/-- e / 2π for the pilot's symbol z, d its nearest point (42_demodulator.md R232). -/
def State.pilotError (s : State) (z : Cx) : Scalar :=
  let d := s.point (s.slice z)
  if z = Cx.zero ∨ d = Cx.zero then 0 else s.num.argTurn (s.num.cxMul z d.conj)

/-- The timing offset of a pilot error of `e` turns, in samples: (2π·e) · N / (2π·b_p) (42_demodulator.md R232). -/
def State.timingOffset (s : State) (e : Scalar) : Scalar :=
  s.num.div (s.num.mul e (s.nSym : Scalar)) (s.bin s.pilot : Scalar)

/-- Track(v) with timing offset τ (42_demodulator.md R232). The position moves by the old ratio. -/
def State.trackBy (s : State) (tau : Scalar) : State :=
  ((s.setPos (s.num.sub s.rs.pos (s.num.mul (s.num.mul s.kP tau) s.rs.ratio))).setRatio
    (s.num.mul s.rs.ratio (s.num.sub 1 (s.num.div (s.num.mul s.kI tau) (s.nSym : Scalar))))).setPhase tau

/-- Track(v), z the pilot's calibrated symbol (42_demodulator.md R232). -/
def State.track (s : State) (z : Cx) : State := s.trackBy (s.timingOffset (s.pilotError z))

/-- The pilot's symbol among a block's calibrated symbols. -/
def State.pilotOf (s : State) (v : List Cx) : Cx := (v[s.pilot]?).getD Cx.zero

/-- The actions of one block DEMOD demodulated: the symbols' pushes, the tracking update, the count (42_demodulator.md R220). -/
def State.demodBlockActs (s : State) (v : List Cx) : List Act :=
  v.map (fun z => .pushSym (symbolUnit z)) ++ [.track (s.pilotOf v), .countUp]

/-- One engine step of DEMOD with `left` blocks still to produce and `win` read of the next window (42_demodulator.md
R220). -/
def State.stepDemod (s : State) (left : Nat) (win : List Scalar) : Option State :=
  match left with
  | 0 => some (s.endWith .none)
  | more + 1 =>
    match s.fetch false s.rsNeed with
    | .hold => none
    | .eos => some (s.endWith .none)
    | .progress t => some t
    | .ready =>
      let w := win ++ [s.rsValue]
      if s.nSym ≤ w.length then
        some (s.rsStep.load (s.demodBlockActs (s.calibrated s.calGains w)) (.demod more []))
      else some (s.rsStep.load [] (.demod left w))

end Sys2Proof.Machine
end

