-- ==== Sys2Proof/Machine/FrameRx.lean ====
section
/-! DEFINITION. The receiver side of the frame codec: skip, preamble search, calibration, block iterator, parser and
confirmation (44_frame_rx.md R281 to R323), one engine step of each state. -/

namespace Sys2Proof.Machine

/-- The actions of a RECV's end: RXSTATE, the port clean-up in the step before the end, the end (44_frame_rx.md R320 to
R323; 60_exceptions.md R374). -/
def rxEnd (r : RxState) (c : Cause) : List Act := [.setRx r, .clearSmpIn, .finish c]

/-- End NOCARRIER (44_frame_rx.md R322). -/
def State.endNoCarrier (s : State) : State := s.load (rxEnd .noCarrier .noCarrier) .closing
/-- End TRUNCATED (44_frame_rx.md R321). -/
def State.endTruncated (s : State) : State := s.load (rxEnd .truncated .truncated) .closing
/-- End DONE (44_frame_rx.md R320). -/
def State.endDone (s : State) : State := s.load (rxEnd .done .none) .closing

/-- RECV accepted and checked: SEARCHING, progress registers, buffer and parser cleared (44_frame_rx.md R281). -/
def State.recvStart (s : State) : State :=
  { s with
    st := { s.st with rx := .searching }
    reg := { s.reg with count := 0, rxConsumed := 0, rxBlocks := 0, detOffset := 0, detPeak := bits64 0 }
    rs := { s.rs with buf := [] }
    rx := .init }

/-! ### SEARCHING -/

/-- One step of the skip: a sample is taken and discarded (44_frame_rx.md R290). -/
def State.stepSkip (s : State) : Nat → Option State
  | 0 => some ({ s with rx := { s.rx with d := 0 } }.load [] .search)
  | left + 1 =>
    match s.popSample true with
    | .hold => none
    | .eos => some s.endNoCarrier
    | .got none t => some t
    | .got (some _) t => some (t.load [] (.skip left))

/-- `n` samples of `rs.buf` from index d. -/
def Resampler.window (r : Resampler) (d n : Nat) : List Scalar := (List.range n).map fun i => r.at (d + i : Nat)

/-- The normalized correlation of a window y with the reference preamble p (44_frame_rx.md R296). -/
def State.correlation (s : State) (y p : List Scalar) : Scalar :=
  let ey := s.num.energy y
  let ep := s.num.energy p
  if ey = 0 ∨ ep = 0 then 0 else s.num.div (s.num.innerProduct y p) (s.num.sqrt (s.num.mul ey ep))

/-- Corr(d), its samples being there (44_frame_rx.md R296). -/
def State.corr (s : State) (d : Nat) : Scalar := s.correlation (s.rs.window d s.nPre) s.preamble

/-- The last index Corr(d) reads. -/
def State.corrNeed (s : State) (d : Nat) : Int := (d : Int) + s.nPre - 1

/-- One step of the threshold search (44_frame_rx.md R300, first loop). -/
def State.stepSearch (s : State) : Option State :=
  if s.searchLimit ≤ s.rx.d then some s.endNoCarrier
  else
    match s.fetch true (s.corrNeed s.rx.d) with
    | .hold => none
    | .eos => some s.endNoCarrier
    | .progress t => some t
    | .ready =>
      let c := s.corr s.rx.d
      if s.theta ≤ c then
        some ({ s with rx := { s.rx with d0 := s.rx.d, dbest := s.rx.d, cbest := c, d := s.rx.d + 1 } }.load [] .refine)
      else some { s with rx := { s.rx with d := s.rx.d + 1 } }

/-- SEARCHING ends with a peak: DET_PEAK, DET_OFFSET, and RXSTATE <- CALIBRATING (44_frame_rx.md R302, R303). -/
def State.peakFound (s : State) : State :=
  { s with
    reg := { s.reg with detPeak := bits64 s.rx.cbest, detOffset := BitVec.ofNat 64 s.rx.dbest }
    st := { s.st with rx := .calibrating } }.load [] .calibrate

/-- One step of the peak refinement (44_frame_rx.md R300, second loop). -/
def State.stepRefine (s : State) : Option State :=
  if s.rx.d0 + s.nPre ≤ s.rx.d ∨ s.searchLimit ≤ s.rx.d then some s.peakFound
  else
    match s.fetch true (s.corrNeed s.rx.d) with
    | .hold => none
    | .eos => some s.peakFound
    | .progress t => some t
    | .ready =>
      let c := s.corr s.rx.d
      if s.rx.cbest < c then some { s with rx := { s.rx with dbest := s.rx.d, cbest := c, d := s.rx.d + 1 } }
      else some { s with rx := { s.rx with d := s.rx.d + 1 } }

/-! ### CALIBRATING -/

/-- r_t, the projected training block t at the detected offset (44_frame_rx.md R305). -/
def State.rxTraining (s : State) (t : Nat) : List Cx :=
  s.projAll (s.rs.window (s.rx.dbest + t * s.nSym) s.nSym)

/-- r_{t,k} of a list of projected training blocks. -/
def cxAt (rs : List (List Cx)) (t k : Nat) : Cx := (((rs[t]?).getD [])[k]?).getD Cx.zero

/-- The calibration gain of carrier k from the received training blocks (44_frame_rx.md R306). -/
def State.trainGain (s : State) (rs : List (List Cx)) (k : Nat) : Cx :=
  let den := s.num.sum ((List.range s.nTrain).map fun t => s.num.normSq (cxAt rs t k))
  if 0 < den then
    s.num.cxDiv (s.num.cxSum ((List.range s.nTrain).map fun t => s.num.cxMul (s.trainSymbol t k) (cxAt rs t k).conj)) den
  else Cx.one

/-- e_t / 2π for the pilot (44_frame_rx.md R307). -/
def State.trainError (s : State) (rs : List (List Cx)) (t : Nat) : Scalar :=
  let r := cxAt rs t s.pilot
  let u := s.trainSymbol t s.pilot
  if r = Cx.zero ∨ u = Cx.zero then 0 else s.num.argTurn (s.num.cxMul r u.conj)

/-- ψ_t / 2π, the unwrapped phase (44_frame_rx.md R307). -/
def State.unwrapped (s : State) (rs : List (List Cx)) : Nat → Scalar
  | 0 => s.trainError rs 0
  | t + 1 => s.num.add (s.unwrapped rs t) (s.num.wrapTurn (s.num.sub (s.trainError rs (t + 1)) (s.trainError rs t)))

/-- t̄ = (L − 1)/2 (44_frame_rx.md R307, R308). -/
def State.midTraining (s : State) : Scalar := s.num.div (s.num.sub (s.nTrain : Scalar) 1) 2

/-- The drift s, the least-squares slope of the pilot timing, samples a block (44_frame_rx.md R307). -/
def State.drift (s : State) (rs : List (List Cx)) : Scalar :=
  if 2 ≤ s.nTrain then
    let ts := List.range s.nTrain
    let tau : Nat → Scalar := fun t => s.timingOffset (s.unwrapped rs t)
    let mean := s.num.div (s.num.sum (ts.map tau)) (s.nTrain : Scalar)
    let dev : Nat → Scalar := fun t => s.num.sub (t : Scalar) s.midTraining
    s.num.div (s.num.sum (ts.map fun t => s.num.mul (dev t) (s.num.sub (tau t) mean)))
      (s.num.sum (ts.map fun t => s.num.mul (dev t) (dev t)))
  else 0

/-- r₀ = N / (N + s) (44_frame_rx.md R307). -/
def State.initialRatio (s : State) (rs : List (List Cx)) : Scalar :=
  s.num.div (s.nSym : Scalar) (s.num.add (s.nSym : Scalar) (s.drift rs))

/-- The position of data block 0 at ratio r₀ (44_frame_rx.md R308). -/
def State.dataStart (s : State) (r0 : Scalar) : Scalar :=
  s.num.add (s.num.add (s.rx.dbest : Scalar) (s.num.mul s.midTraining (s.nSym : Scalar)))
    (s.num.mul (s.num.mul (s.num.sub (s.nTrain : Scalar) s.midTraining) (s.nSym : Scalar)) r0)

/-- The CAL table with the gains of carriers k, k + 1, ... written (44_frame_rx.md R306); later entries stay. -/
def Cal.storeGains (c : Cal) : Nat → List Cx → Cal
  | _, [] => c
  | k, g :: gs =>
    Cal.storeGains { re := Table.put f64One c.re k (bits64 g.re), im := Table.put 0 c.im k (bits64 g.im) } (k + 1) gs

/-- CALIBRATING, one step: the gains, the initial ClockState, and RXSTATE <- RECEIVING (44_frame_rx.md R305 to R308,
R324). No sample is taken. -/
def State.stepCalibrate (s : State) : Option State :=
  let rs := (List.range s.nTrain).map s.rxTraining
  let gains := (List.range s.nCar).map (s.trainGain rs)
  let r0 := s.initialRatio rs
  let t := ((({ s with rx := { s.rx with gains := gains }, cal := s.cal.storeGains 0 gains }.setPos
    (s.dataStart r0)).setRatio r0).setPhase 0).setRx .receiving
  some (t.load [] (.receive []))

/-! ### RECEIVING -/

/-- The bits of a block's calibrated symbols, carrier 0 first, B bits a slice (44_frame_rx.md R312; 20_memory.md R111). -/
def State.slicedBits (s : State) (v : List Cx) : List Bool := v.flatMap fun z => bitsOfNat s.nBit (s.slice z)

/-- One step of RECEIVING: a sample of the window, or the short block, the one way to TRUNCATED here (44_frame_rx.md R312,
R324; log entry 16). -/
def State.stepReceive (s : State) (win : List Scalar) : Option State :=
  match s.fetch true s.rsNeed with
  | .hold => none
  | .eos => some s.endTruncated
  | .progress t => some t
  | .ready =>
    let w := win ++ [s.rsValue]
    if s.nSym ≤ w.length then
      let v := s.calibrated s.rx.gains w
      some (s.rsStep.load [.blockUp] (.rxBits (s.slicedBits v) (s.pilotOf v)))
    else some (s.rsStep.load [] (.receive w))

/-- ParseByte(v): the codec after it, and the payload byte it delivers, if any (44_frame_rx.md R314). -/
def RxCodec.parseByte (r : RxCodec) (v : Byte) : RxCodec × Option Byte :=
  if r.hdr then
    if v = 0 then ({ r with sentinel := true }, none)
    else ({ r with remaining := v.toNat, hdr := false }, none)
  else
    ({ r with remaining := r.remaining - 1, hdr := decide (r.remaining - 1 = 0) }, some v)

/-- RxBit(c): the codec after it, and the payload byte it delivers, if any (44_frame_rx.md R313). -/
def RxCodec.rxBit (r : RxCodec) (c : Bool) : RxCodec × Option Byte :=
  let bits := r.rbits ++ [c]
  if bits.length = 8 then RxCodec.parseByte { r with rbits := [] } (byteOfBits bits)
  else ({ r with rbits := bits }, none)

/-- The actions that deliver a payload byte (44_frame_rx.md R314, R315). -/
def deliver : Option Byte → List Act
  | none => []
  | some b => [.pushByte b, .countUp]

/-- One step of the bit loop of RECEIVING; after the last bit, or once the sentinel is decoded, the tracking update and the
next state (44_frame_rx.md R312). -/
def State.stepRxBits (s : State) (bits : List Bool) (pilot : Cx) : Option State :=
  if s.rx.sentinel then some (s.load [.track pilot, .setRx .confirming] (.confirm s.cfg.confirm.toNat))
  else
    match bits with
    | [] => some (s.load [.track pilot] (.receive []))
    | c :: rest =>
      let r := s.rx.rxBit c
      some ({ s with rx := r.1 }.load (deliver r.2) (.rxBits rest pilot))

/-- One step of CONFIRMING (44_frame_rx.md R318). -/
def State.stepConfirm (s : State) : Nat → Option State
  | 0 => some s.endDone
  | left + 1 =>
    match s.fetch true s.rsNeed with
    | .hold => none
    | .eos => some s.endTruncated
    | .progress t => some t
    | .ready => some (s.rsStep.load [] (.confirm left))

end Sys2Proof.Machine
end

