-- ==== Sys2Proof/Machine/FrameTx.lean ====
section
/-! DEFINITION. The sender side of the frame codec: the frame as a function of the payload (43_frame_tx.md R251 to R257),
and the engine steps of SEND (R258). -/

namespace Sys2Proof.Machine

/-! ### The frame -/

/-- `n` samples of silence (43_frame_tx.md R251). -/
def silence (n : Nat) : List Scalar := List.replicate n 0

/-- A chunk with its length byte; the empty chunk gives nothing (43_frame_tx.md R253). -/
def chunkBytes (c : List Byte) : List Byte := if c = [] then [] else BitVec.ofNat 8 c.length :: c

/-- The chunks of a payload, at most 255 bytes each, as framed bytes; `cur` is the chunk being filled
(43_frame_tx.md R253, R254). -/
def framedFrom : List Byte → List Byte → List Byte
  | cur, [] => chunkBytes cur ++ [0]
  | cur, b :: rest =>
    if (cur ++ [b]).length = Config.chunkMax then chunkBytes (cur ++ [b]) ++ framedFrom [] rest
    else framedFrom (cur ++ [b]) rest

/-- Framed(D): the chunks and the sentinel (43_frame_tx.md R254). -/
def framed (d : List Byte) : List Byte := framedFrom [] d

/-- Bits fed one after another to `tbits`: the blocks that fill, and the bits left over (43_frame_tx.md R258, EmitByte). -/
def feedBits (cap : Nat) : List Bool → List Bool → List (List Bool) × List Bool
  | acc, [] => ([], acc)
  | acc, b :: bs =>
    if (acc ++ [b]).length = cap then
      let r := feedBits cap [] bs
      ((acc ++ [b]) :: r.1, r.2)
    else feedBits cap (acc ++ [b]) bs

/-- Zero bits appended up to the block capacity (43_frame_tx.md R256). -/
def padBits (cap : Nat) (bits : List Bool) : List Bool := bits ++ List.replicate (cap - bits.length) false

/-- The blocks of a bit stream, the last one padded (43_frame_tx.md R256). -/
def bitBlocks (cap : Nat) (bits : List Bool) : List (List Bool) :=
  let r := feedBits cap [] bits
  if r.2 = [] then r.1 else r.1 ++ [padBits cap r.2]

/-- DataBlocks(D), as symbols (43_frame_tx.md R256, R257). -/
def State.dataBlocks (s : State) (d : List Byte) : List (List Cx) :=
  (bitBlocks s.blockBits ((framed d).flatMap bitsOfByte)).map s.blockSymbols

/-- Frame(D) (43_frame_tx.md R251). -/
def State.frame (s : State) (d : List Byte) : List Scalar :=
  silence s.cfg.silStart.toNat ++ s.preamble ++ s.modulate (s.dataBlocks d) ++ silence s.cfg.silStop.toNat

/-! ### The procedure -/

/-- The actions that emit samples in SEND: each sample's pushes, then its count (43_frame_tx.md R258). -/
def State.emitSamples (s : State) (xs : List Scalar) : List Act :=
  xs.flatMap fun x => s.pushSampleActs x ++ [.countUp]

/-- EmitBlock() for a full block of bits (43_frame_tx.md R258). -/
def State.emitBlock (s : State) (bits : List Bool) : List Act := s.emitSamples (s.synth (s.blockSymbols bits))

/-- SEND, LEAD: one sample of silence, or on to the preamble. -/
def State.stepLead (s : State) : Nat → Option State
  | 0 => some (s.load [] (.preamble 0))
  | left + 1 => some (s.load (s.emitSamples [0]) (.lead left))

/-- SEND, PREAMBLE: training block t, or on to the data with the codec cleared. -/
def State.stepPreamble (s : State) (t : Nat) : Option State :=
  if t < s.nTrain then some (s.load (s.emitSamples (s.synth (s.trainBlock t))) (.preamble (t + 1)))
  else some ({ s with tx := .init }.load [] .data)

/-- SEND, DATA: takes a payload byte; a chunk of 255 bytes, or end of stream, starts emission. -/
def State.stepData (s : State) : Option State :=
  match s.popByte with
  | .hold => none
  | .eos => some (s.load [] (.emit (chunkBytes s.tx.tbuf ++ [0]) true))
  | .got b t =>
    let buf := s.tx.tbuf ++ [b]
    let t := { t with tx := { t.tx with tbuf := buf } }
    if buf.length = Config.chunkMax then some (t.load [] (.emit (chunkBytes buf) false))
    else some (t.load [] .data)

/-- SEND, DATA: EmitByte of the next framed byte; after the last, padding or the next chunk. -/
def State.stepEmit (s : State) (queue : List Byte) (last : Bool) : Option State :=
  match queue with
  | [] => some ({ s with tx := { s.tx with tbuf := [] } }.load [] (if last then .pad else .data))
  | b :: rest =>
    let r := feedBits s.blockBits s.tx.tbits (bitsOfByte b)
    some ({ s with tx := { s.tx with tbits := r.2 } }.load (r.1.flatMap s.emitBlock) (.emit rest last))

/-- SEND, DATA: the last block padded with zero bits, if any bits are left. -/
def State.stepPad (s : State) : Option State :=
  if s.tx.tbits = [] then some (s.load [] (.trail s.cfg.silStop.toNat))
  else
    some ({ s with tx := { s.tx with tbits := [] } }.load (s.emitBlock (padBits s.blockBits s.tx.tbits))
      (.trail s.cfg.silStop.toNat))

/-- SEND, TRAIL: one sample of silence, or the clean-up and the end. -/
def State.stepTrail (s : State) : Nat → Option State
  | 0 => some (s.load [.clearByteIn, .finish .none] .closing)
  | left + 1 => some (s.load (s.emitSamples [0]) (.trail left))

end Sys2Proof.Machine
end

