-- ==== Sys2Proof/Machine/Engine.lean ====
section
/-! DEFINITION. The engine's step: at most one observable action (45_control.md R344), and a run of several steps
(00_scope.md R8, 60_exceptions.md R388, 70_reset_and_hazards.md R415). -/

namespace Sys2Proof.Machine

/-- One fixed action; none while the port it pushes to is full, the engine holds (20_memory.md R108). -/
def State.perform (s : State) : Act → Option State
  | .pushSmp u => s.pushSmp u
  | .pushSym u => s.pushSym u
  | .pushByte b => s.pushByte b
  | .countUp => some s.countUp
  | .blockUp => some s.blockUp
  | .track z => some (s.track z)
  | .setRx r => some (s.setRx r)
  | .clearByteIn => some s.clearByteIn
  | .clearSmpIn => some s.clearSmpIn
  | .finish c => some (s.endWith c)

/-- One step of the rule a phase stands in. -/
def State.stepPhase (s : State) : Phase → Option State
  | .adv left => s.stepAdv left
  | .mod left syms => s.stepMod left syms
  | .demod left win => s.stepDemod left win
  | .lead left => s.stepLead left
  | .preamble t => s.stepPreamble t
  | .data => s.stepData
  | .emit queue last => s.stepEmit queue last
  | .pad => s.stepPad
  | .trail left => s.stepTrail left
  | .skip left => s.stepSkip left
  | .search => s.stepSearch
  | .refine => s.stepRefine
  | .calibrate => s.stepCalibrate
  | .receive win => s.stepReceive win
  | .rxBits bits pilot => s.stepRxBits bits pilot
  | .confirm left => s.stepConfirm left
  | .closing => none

/-- One engine step; none when the engine is idle or holds (00_scope.md R8). A step that only fixes the next actions is
not observable (45_control.md R344; log entry 10). -/
def State.engineStep (s : State) : Option State :=
  match s.eng with
  | .idle => none
  | .run _ (a :: rest) ph => (s.load rest ph).perform a
  | .run _ [] ph => s.stepPhase ph

/-- At most `k` engine steps, stopping where the engine is idle or holds. -/
def State.runEngine : Nat → State → State
  | 0, s => s
  | k + 1, s =>
    match s.engineStep with
    | none => s
    | some t => State.runEngine k t

/-- The engine's part of a turn: at most `burst` steps (20_memory.md R116; log entry 5). -/
def State.drive (s : State) : State := State.runEngine s.burst s

end Sys2Proof.Machine
end

