-- ==== Sys2Proof/Machine/ControlCmd.lean ====
section
/-! DEFINITION. The control commands NOP, SRST and CAL_CLEAR (45_control.md R350 to R352). -/

namespace Sys2Proof.Machine

/-- NOP: only the status update (45_control.md R350). -/
def execNop (s : State) : Host.Outcome State Fault Refusal :=
  .next (s.issue .nop (·.checks .nop) (·.endWith .none)).drive

/-- SRST: while busy it aborts the executing command, which ends ABORTED; while idle it is accepted and ends normally; the
effects are the same (45_control.md R340, R351). -/
def execSrst (s : State) : Host.Outcome State Fault Refusal :=
  .next (if s.busy then s.sessionReset.endWith .aborted
    else s.issue .srst (·.checks .srst) (·.sessionReset.endWith .none)).drive

/-- CAL_CLEAR: every CAL entry below K_MAX is 1 + 0j (45_control.md R352). -/
def State.calClear (s : State) : State :=
  { s with cal := { re := Table.resetBelow s.par.kMax s.cal.re, im := Table.resetBelow s.par.kMax s.cal.im } }

/-- CAL_CLEAR (45_control.md R352). -/
def execCalClear (s : State) : Host.Outcome State Fault Refusal :=
  .next (s.issue .calClear (·.checks .calClear) (·.calClear.endWith .none)).drive

end Sys2Proof.Machine
end

