-- ==== Sys2Proof/Machine/FrameCmd.lean ====
section
/-! DEFINITION. The frame commands SEND (43_frame_tx.md R250) and RECV (44_frame_rx.md R280). -/

namespace Sys2Proof.Machine

/-- SEND begins with the lead silence (43_frame_tx.md R250, R258). -/
def execSend (s : State) : Host.Outcome State Fault Refusal :=
  .next (s.issue .send (·.checks .send) (fun t => t.load [] (.lead t.cfg.silStart.toNat))).drive

/-- RECV begins with its acceptance effects and the skip (44_frame_rx.md R280, R281, R290). -/
def execRecv (s : State) : Host.Outcome State Fault Refusal :=
  .next (s.issue .recv (·.checks .recv) (fun t => t.recvStart.load [] (.skip t.cfg.skip.toNat))).drive

end Sys2Proof.Machine
end

