-- ==== Sys2Proof/Machine/ModemCmd.lean ====
section
/-! DEFINITION. The block commands MOD (41_modulator.md R200) and DEMOD (42_demodulator.md R220). -/

namespace Sys2Proof.Machine

/-- MOD n: n = 0 ends at once (41_modulator.md R200; 30_encoding.md R142). -/
def execMod (n : Nat) (s : State) : Host.Outcome State Fault Refusal :=
  .next (s.issue (.mod n) (·.checks (.mod n))
    (fun t => if n = 0 then t.endWith .none else t.load [] (.mod n []))).drive

/-- DEMOD n: n = 0 ends at once (42_demodulator.md R220; 30_encoding.md R142). -/
def execDemod (n : Nat) (s : State) : Host.Outcome State Fault Refusal :=
  .next (s.issue (.demod n) (·.checks (.demod n))
    (fun t => if n = 0 then t.endWith .none else t.load [] (.demod n []))).drive

end Sys2Proof.Machine
end

