-- ==== Sys2Proof/Machine/ResamplerCmd.lean ====
section
/-! DEFINITION. The resampler commands RS_INIT, RS_RATIO and RS_ADV (40_resampler.md R170 to R172). -/

namespace Sys2Proof.Machine

/-- The effects of RS_INIT; SMP_IN and `pcm_lo` are not touched (40_resampler.md R170). -/
def State.rsInit (s : State) : State := ((s.clearBuf.setPos 0).setRatio s.ratio0).setPhase 0

/-- RS_INIT (40_resampler.md R170). -/
def execRsInit (s : State) : Host.Outcome State Fault Refusal :=
  .next (s.issue .rsInit (·.checks .rsInit) (·.rsInit.endWith .none)).drive

/-- RS_RATIO: buffer, position and CLK_PHASE stay (40_resampler.md R171). -/
def execRsRatio (s : State) : Host.Outcome State Fault Refusal :=
  .next (s.issue .rsRatio (·.checks .rsRatio) (fun t => (t.setRatio t.ratio0).endWith .none)).drive

/-- RS_ADV n: n = 0 ends at once (40_resampler.md R172; 30_encoding.md R142). -/
def execRsAdv (n : Nat) (s : State) : Host.Outcome State Fault Refusal :=
  .next (s.issue (.rsAdv n) (·.checks (.rsAdv n))
    (fun t => if n = 0 then t.endWith .none else t.load [] (.adv n))).drive

end Sys2Proof.Machine
end

