-- ==== Sys2Proof/Machine/Dispatch.lean ====
section
/-! DEFINITION. One arm per command (30_encoding.md R143). -/

namespace Sys2Proof.Machine

/-- The issue of a command word to CTRL and the engine's steps up to the end of the turn (45_control.md R340, R341). -/
def exec (i : Instr) (s : State) : Host.Outcome State Fault Refusal :=
  match i with
  | .nop => Sys2Proof.Machine.execNop s
  | .srst => Sys2Proof.Machine.execSrst s
  | .calClear => Sys2Proof.Machine.execCalClear s
  | .send => Sys2Proof.Machine.execSend s
  | .recv => Sys2Proof.Machine.execRecv s
  | .mod n => Sys2Proof.Machine.execMod n s
  | .demod n => Sys2Proof.Machine.execDemod n s
  | .rsInit => Sys2Proof.Machine.execRsInit s
  | .rsRatio => Sys2Proof.Machine.execRsRatio s
  | .rsAdv n => Sys2Proof.Machine.execRsAdv n s

end Sys2Proof.Machine
end

