-- ==== Sys2Proof/Machine/Flags.lean ====
section
/-! DEFINITION. STATUS as a word: its fields, their codes, and what a write clears (10_state.md R43, R54, R59;
60_exceptions.md R370). -/

namespace Sys2Proof.Machine

/-- Cause codes (60_exceptions.md R370). -/
def Cause.code : Cause → BitVec 4
  | .none => 0
  | .noCarrier => 1
  | .truncated => 2
  | .illegal => 3
  | .badConfig => 4
  | .aborted => 5

/-- Receiver state codes (10_state.md R54). -/
def RxState.code : RxState → BitVec 4
  | .idle => 0
  | .searching => 1
  | .calibrating => 2
  | .receiving => 3
  | .confirming => 4
  | .done => 5
  | .truncated => 6
  | .noCarrier => 7

/-- STATUS (10_state.md R43): BUSY, DONE, RESULT, REJ, WIGN in bits 0 to 4, CAUSE in [11:8], RXSTATE in [15:12]; the
other bits read 0. -/
def State.statusWord (s : State) : Word :=
  0#48 ++ s.st.rx.code ++ s.st.cause.code ++ 0#3 ++ BitVec.ofBool s.st.wign ++ BitVec.ofBool s.st.rej ++
    BitVec.ofBool s.st.result ++ BitVec.ofBool s.st.done ++ BitVec.ofBool s.busy

/-- A host write to STATUS: bit 3 clears REJ, bit 4 clears WIGN, nothing else changes (10_state.md R59). -/
def State.writeStatus (s : State) (v : Word) : State :=
  { s with st := { s.st with
      rej := s.st.rej && !v.getLsbD 3
      wign := s.st.wign && !v.getLsbD 4 } }

end Sys2Proof.Machine
end

