-- ==== Sys2Proof/Machine/Registers.lean ====
section
/-! DEFINITION. The register map (10_state.md R40) and the host's register transactions (R56 to R59; 20_memory.md R100). -/

namespace Sys2Proof.Machine

/-- The implemented registers (10_state.md R40). -/
inductive Reg
  | id | ctrl | status | count | rxConsumed | rxBlocks | detOffset | detPeak | clkFreq | clkPhase | rsPos | rsRatio
  | cfgFs | cfgN | cfgK | cfgB | cfgLtrain | cfgSilStart | cfgSilStop | cfgConfirm | cfgPilot | cfgSearchLimit | cfgSkip
  | cfgFlags | cfgThresh | cfgKp | cfgKi | cfgRatio0 | cfgPcmScale
  | cfgBin (k : Nat) | cfgPhref (k : Nat) | cfgConstRe (i : Nat) | cfgConstIm (i : Nat) | calRe (k : Nat) | calIm (k : Nat)
  | cfgTrain (t k : Nat)
  deriving DecidableEq, Repr

/-- The registers below the tables, by index. -/
def plainReg : Nat → Option Reg
  | 0x00 => some .id
  | 0x01 => some .ctrl
  | 0x02 => some .status
  | 0x03 => some .count
  | 0x04 => some .rxConsumed
  | 0x05 => some .rxBlocks
  | 0x06 => some .detOffset
  | 0x07 => some .detPeak
  | 0x08 => some .clkFreq
  | 0x09 => some .clkPhase
  | 0x0A => some .rsPos
  | 0x0B => some .rsRatio
  | 0x10 => some .cfgFs
  | 0x11 => some .cfgN
  | 0x12 => some .cfgK
  | 0x13 => some .cfgB
  | 0x14 => some .cfgLtrain
  | 0x15 => some .cfgSilStart
  | 0x16 => some .cfgSilStop
  | 0x17 => some .cfgConfirm
  | 0x18 => some .cfgPilot
  | 0x19 => some .cfgSearchLimit
  | 0x1A => some .cfgSkip
  | 0x1B => some .cfgFlags
  | 0x1C => some .cfgThresh
  | 0x1D => some .cfgKp
  | 0x1E => some .cfgKi
  | 0x1F => some .cfgRatio0
  | 0x20 => some .cfgPcmScale
  | _ => none

/-- Entry `i - base` of a table at `base` with fewer than `n` entries and at most 256. -/
def tableReg (base n : Nat) (mk : Nat → Reg) (i : Nat) : Option Reg :=
  if base ≤ i ∧ i < base + 256 ∧ i - base < n then some (mk (i - base)) else none

/-- The register an index names; none for a reserved index (10_state.md R40, R58). -/
def regAt (p : Params) (ix : Index) : Option Reg :=
  let i := ix.toNat
  if i < 0x100 then plainReg i
  else if i < 0x200 then tableReg 0x100 p.kMax .cfgBin i
  else if i < 0x300 then tableReg 0x200 p.kMax .cfgPhref i
  else if i < 0x400 then tableReg 0x300 (2 ^ p.bMax) .cfgConstRe i
  else if i < 0x500 then tableReg 0x400 (2 ^ p.bMax) .cfgConstIm i
  else if i < 0x600 then tableReg 0x500 p.kMax .calRe i
  else if i < 0x700 then tableReg 0x600 p.kMax .calIm i
  else if i < 0x100000 then none
  else
    let j := i - 0x100000
    if j / 256 < p.lMax ∧ j % 256 < p.kMax then some (.cfgTrain (j / 256) (j % 256)) else none

/-- The index of a register (10_state.md R40). -/
def Reg.index : Reg → Index
  | .id => 0x00#32
  | .ctrl => 0x01#32
  | .status => 0x02#32
  | .count => 0x03#32
  | .rxConsumed => 0x04#32
  | .rxBlocks => 0x05#32
  | .detOffset => 0x06#32
  | .detPeak => 0x07#32
  | .clkFreq => 0x08#32
  | .clkPhase => 0x09#32
  | .rsPos => 0x0A#32
  | .rsRatio => 0x0B#32
  | .cfgFs => 0x10#32
  | .cfgN => 0x11#32
  | .cfgK => 0x12#32
  | .cfgB => 0x13#32
  | .cfgLtrain => 0x14#32
  | .cfgSilStart => 0x15#32
  | .cfgSilStop => 0x16#32
  | .cfgConfirm => 0x17#32
  | .cfgPilot => 0x18#32
  | .cfgSearchLimit => 0x19#32
  | .cfgSkip => 0x1A#32
  | .cfgFlags => 0x1B#32
  | .cfgThresh => 0x1C#32
  | .cfgKp => 0x1D#32
  | .cfgKi => 0x1E#32
  | .cfgRatio0 => 0x1F#32
  | .cfgPcmScale => 0x20#32
  | .cfgBin k => BitVec.ofNat 32 (0x100 + k)
  | .cfgPhref k => BitVec.ofNat 32 (0x200 + k)
  | .cfgConstRe i => BitVec.ofNat 32 (0x300 + i)
  | .cfgConstIm i => BitVec.ofNat 32 (0x400 + i)
  | .calRe k => BitVec.ofNat 32 (0x500 + k)
  | .calIm k => BitVec.ofNat 32 (0x600 + k)
  | .cfgTrain t k => BitVec.ofNat 32 (0x100000 + 256 * t + k)

/-- A register this instance implements: a table entry below the table's size (10_state.md R40, R58). -/
def Reg.implemented (p : Params) : Reg → Bool
  | .cfgBin k => decide (k < p.kMax)
  | .cfgPhref k => decide (k < p.kMax)
  | .cfgConstRe i => decide (i < 2 ^ p.bMax)
  | .cfgConstIm i => decide (i < 2 ^ p.bMax)
  | .calRe k => decide (k < p.kMax)
  | .calIm k => decide (k < p.kMax)
  | .cfgTrain t k => decide (t < p.lMax) && decide (k < p.kMax)
  | _ => true

/-- The current value of a register, as the table types it (10_state.md R56); CTRL reads 0 (R42). -/
def State.regValue (s : State) : Reg → Word
  | .id => Config.idValue
  | .ctrl => 0
  | .status => s.statusWord
  | .count => s.reg.count
  | .rxConsumed => s.reg.rxConsumed
  | .rxBlocks => s.reg.rxBlocks
  | .detOffset => s.reg.detOffset
  | .detPeak => s.reg.detPeak
  | .clkFreq => s.reg.clkFreq
  | .clkPhase => s.reg.clkPhase
  | .rsPos => s.reg.rsPos
  | .rsRatio => s.reg.rsRatio
  | .cfgFs => s.cfg.fs.zeroExtend 64
  | .cfgN => s.cfg.n.zeroExtend 64
  | .cfgK => s.cfg.k.zeroExtend 64
  | .cfgB => s.cfg.b.zeroExtend 64
  | .cfgLtrain => s.cfg.ltrain.zeroExtend 64
  | .cfgSilStart => s.cfg.silStart.zeroExtend 64
  | .cfgSilStop => s.cfg.silStop.zeroExtend 64
  | .cfgConfirm => s.cfg.confirm.zeroExtend 64
  | .cfgPilot => s.cfg.pilot.zeroExtend 64
  | .cfgSearchLimit => s.cfg.searchLimit.zeroExtend 64
  | .cfgSkip => s.cfg.skip.zeroExtend 64
  | .cfgFlags => s.cfg.flags.zeroExtend 64
  | .cfgThresh => s.cfg.thresh
  | .cfgKp => s.cfg.kp
  | .cfgKi => s.cfg.ki
  | .cfgRatio0 => s.cfg.ratio0
  | .cfgPcmScale => s.cfg.pcmScale
  | .cfgBin k => (Table.get 0 s.cfg.bin k).zeroExtend 64
  | .cfgPhref k => Table.get 0 s.cfg.phref k
  | .cfgConstRe i => Table.get 0 s.cfg.constRe i
  | .cfgConstIm i => Table.get 0 s.cfg.constIm i
  | .calRe k => Table.get f64One s.cal.re k
  | .calIm k => Table.get 0 s.cal.im k
  | .cfgTrain t k => (Table.get 0 s.cfg.train (256 * t + k)).zeroExtend 64

/-- MemRead(i, 8): a reserved index reads 0; no side effect (10_state.md R56, R58). -/
def State.memRead (s : State) (ix : Index) : Word :=
  match regAt s.par ix with
  | some r => s.regValue r
  | none => 0

/-- The configuration with an RWI register written: a u32 register stores v[31:0], an f64 register all 64 bits, CFG_FLAGS
v[1:0] (10_state.md R57). Any other register leaves it as it is. -/
def Cfg.store (c : Cfg) (r : Reg) (v : Word) : Cfg :=
  let u := v.setWidth 32
  match r with
  | .cfgFs => { c with fs := u }
  | .cfgN => { c with n := u }
  | .cfgK => { c with k := u }
  | .cfgB => { c with b := u }
  | .cfgLtrain => { c with ltrain := u }
  | .cfgSilStart => { c with silStart := u }
  | .cfgSilStop => { c with silStop := u }
  | .cfgConfirm => { c with confirm := u }
  | .cfgPilot => { c with pilot := u }
  | .cfgSearchLimit => { c with searchLimit := u }
  | .cfgSkip => { c with skip := u }
  | .cfgFlags => { c with flags := v.setWidth 2 }
  | .cfgThresh => { c with thresh := v }
  | .cfgKp => { c with kp := v }
  | .cfgKi => { c with ki := v }
  | .cfgRatio0 => { c with ratio0 := v }
  | .cfgPcmScale => { c with pcmScale := v }
  | .cfgBin k => { c with bin := Table.put 0 c.bin k u }
  | .cfgPhref k => { c with phref := Table.put 0 c.phref k v }
  | .cfgConstRe i => { c with constRe := Table.put 0 c.constRe i v }
  | .cfgConstIm i => { c with constIm := Table.put 0 c.constIm i v }
  | .cfgTrain t k => { c with train := Table.put 0 c.train (256 * t + k) u }
  | _ => c

/-- The CAL table with an entry written; any other register leaves it as it is (10_state.md R57, R80). -/
def Cal.store (c : Cal) (r : Reg) (v : Word) : Cal :=
  match r with
  | .calRe k => { c with re := Table.put f64One c.re k v }
  | .calIm k => { c with im := Table.put 0 c.im k v }
  | _ => c

/-- The reset value of a register, as the table gives it (10_state.md R40). -/
def Reg.resetValue : Reg → Word
  | .id => 0x00000001414D4F44#64
  | .rsRatio => 0x3FF0000000000000#64
  | .cfgRatio0 => 0x3FF0000000000000#64
  | .calRe _ => 0x3FF0000000000000#64
  | _ => 0

/-- What a configuration register reads after v was stored: v[31:0] for a u32 register, v[1:0] for CFG_FLAGS, all of v for
an f64 register (10_state.md R40, R57, R77). -/
def Reg.stored (r : Reg) (v : Word) : Word :=
  match r with
  | .cfgFlags => v &&& 3#64
  | .cfgThresh => v
  | .cfgKp => v
  | .cfgKi => v
  | .cfgRatio0 => v
  | .cfgPcmScale => v
  | .cfgPhref _ => v
  | .cfgConstRe _ => v
  | .cfgConstIm _ => v
  | .calRe _ => v
  | .calIm _ => v
  | _ => v &&& 0xFFFFFFFF#64

/-- How the host may write a register (10_state.md R40). -/
inductive Access
  | readOnly | command | sticky | config
  deriving DecidableEq, Repr

/-- The access column of the register table (10_state.md R40). -/
def Reg.access : Reg → Access
  | .id => .readOnly
  | .ctrl => .command
  | .status => .sticky
  | .count => .readOnly
  | .rxConsumed => .readOnly
  | .rxBlocks => .readOnly
  | .detOffset => .readOnly
  | .detPeak => .readOnly
  | .clkFreq => .readOnly
  | .clkPhase => .readOnly
  | .rsPos => .readOnly
  | .rsRatio => .readOnly
  | _ => .config

/-- MemWrite(i, 8, v) to any register but CTRL (10_state.md R57, R58, R59): a write to a reserved index or a read-only
register, or to a configuration register while busy, is ignored and sets WIGN. A CTRL write issues a command, which the step
function does. -/
def State.memWrite (s : State) (ix : Index) (v : Word) : State :=
  match regAt s.par ix with
  | none => s.ignored
  | some r =>
    match r.access with
    | .readOnly => s.ignored
    | .command => s
    | .sticky => s.writeStatus v
    | .config => if s.busy then s.ignored else { s with cfg := s.cfg.store r v, cal := s.cal.store r v }

end Sys2Proof.Machine
end

