-- ==== Sys2Proof/Machine/HostPort.lean ====
section
/-! DEFINITION. What the outside world does to the machine at one instant: register and port transactions of the host
(20_memory.md R100, R106) and the reset event (70_reset_and_hazards.md R400). A CTRL write is the step function's. -/

namespace Sys2Proof.Machine

/-- The state with the transaction's answer in `reply`. -/
def State.answer (s : State) (r : Reply) : State := { s with reply := r }

/-- HostPush(BYTE_IN, b) (20_memory.md R106). -/
def State.hostPushByte (s : State) (b : Byte) : State :=
  if s.port.byteIn.length < s.par.depth.byteIn ∧ s.port.byteInEos = false then
    { s with port := { s.port with byteIn := s.port.byteIn ++ [b] } }
  else s.answer .notPerformed

/-- HostPush(SMP_IN, u) (20_memory.md R106). -/
def State.hostPushSmp (s : State) (u : SampleUnit) : State :=
  if s.port.smpIn.length < s.par.depth.smpIn ∧ s.port.smpInEos = false then
    { s with port := { s.port with smpIn := s.port.smpIn ++ [u] } }
  else s.answer .notPerformed

/-- HostPush(SYM_IN, u) (20_memory.md R106). -/
def State.hostPushSym (s : State) (u : SymbolUnit) : State :=
  if s.port.symIn.length < s.par.depth.symIn ∧ s.port.symInEos = false then
    { s with port := { s.port with symIn := s.port.symIn ++ [u] } }
  else s.answer .notPerformed

/-- HostEOS(p) (20_memory.md R106). -/
def State.hostEos (s : State) : InPort → State
  | .byteIn => { s with port := { s.port with byteInEos := true } }
  | .smpIn => { s with port := { s.port with smpInEos := true } }
  | .symIn => { s with port := { s.port with symInEos := true } }

/-- HostPop(p): the oldest unit is removed and returned (20_memory.md R106). -/
def State.hostPop (s : State) : OutPort → State
  | .byteOut =>
    match s.port.byteOut with
    | [] => s.answer .notPerformed
    | u :: rest => { s with port := { s.port with byteOut := rest } }.answer (.byte u)
  | .smpOut =>
    match s.port.smpOut with
    | [] => s.answer .notPerformed
    | u :: rest => { s with port := { s.port with smpOut := rest } }.answer (.sample u)
  | .symOut =>
    match s.port.symOut with
    | [] => s.answer .notPerformed
    | u :: rest => { s with port := { s.port with symOut := rest } }.answer (.symbol u)
  | .dump =>
    match s.port.dump with
    | [] => s.answer .notPerformed
    | u :: rest => { s with port := { s.port with dump := rest } }.answer (.sample u)

/-- One transaction of the outside, a CTRL write excepted. -/
def State.transact (s : State) : HostTxn → State
  | .pass => s
  | .read i => s.answer (.word (s.memRead i))
  | .write i v => s.memWrite i v
  | .pushByte b => s.hostPushByte b
  | .pushSmp u => s.hostPushSmp u
  | .pushSym u => s.hostPushSym u
  | .eos p => s.hostEos p
  | .pop p => s.hostPop p
  | .reset => s.hardReset

/-- The index of CTRL (10_state.md R40, R42). -/
def ctrlIndex : Index := 0x1#32

/-- The command word a transaction writes to CTRL, if it does (10_state.md R42). -/
def HostTxn.ctrlWord : HostTxn → Option Word
  | .write i v => if i = ctrlIndex then some v else none
  | _ => none

/-- The state in which a turn's transaction is performed: the turn is taken from the schedule, the engine's share of it is
its burst, and the last answer is cleared (log entries 5 and 7). -/
def State.beginTurn (s : State) (t : Turn) (rest : List Turn) : State :=
  { s with sched := rest, burst := t.burst, reply := .none }

/-- The turn that writes a command word to CTRL, with the burst the state has. -/
def State.commandTurn (s : State) (v : Word) : Turn := { txn := .write ctrlIndex v, burst := s.burst }

/-- A state whose next turn writes the command word to CTRL. -/
def State.withCommand (s : State) (v : Word) : State := { s with sched := s.commandTurn v :: s.sched }

end Sys2Proof.Machine
end

