-- ==== Sys2Proof/Machine/Step.lean ====
section
/-! DEFINITION. One step of the machine: one turn of the interleaving of the host and the engine (20_memory.md R100, R116;
log entry 5). -/

namespace Sys2Proof.Machine

/-- A host write of v to CTRL (45_control.md R340): the command it encodes, or an illegal word. -/
def command (v : Word) (s : State) : Host.Outcome State Fault Refusal :=
  match decodeWord v with
  | .ok i => exec i s
  | .error _ => .next s.issueIllegal.drive

/-- One turn: the next host transaction and then the engine's steps; with no transaction to come, the engine takes at
least one step if it can (70_reset_and_hazards.md R415). An idle or holding engine takes none, and the state stays
(60_exceptions.md R388). -/
def step (s : State) : Host.Outcome State Fault Refusal :=
  match s.sched with
  | [] => .next (State.runEngine (s.burst + 1) s)
  | t :: rest =>
    match t.txn.ctrlWord with
    | some v => command v (s.beginTurn t rest)
    | none => .next ((s.beginTurn t rest).transact t.txn).drive

/-- The state whose next step issues the command word of an opcode-table row: a CTRL write of it is the host's next
transaction (10_state.md R42; log entry 5). -/
def State.withFetchWord (s : State) (nbits w : Nat) : State := s.withCommand (BitVec.ofNat 64 (w % 2 ^ nbits))

end Sys2Proof.Machine
end

