-- ==== Sys2Proof/Machine/Assembly.lean ====
section
/-! DEFINITION. The host assembly syntax: base transactions and pseudo-instructions with their expansions
(30_encoding.md R148, R149). A host program is a list of lines; its transactions become the turns of a schedule. -/

namespace Sys2Proof.Machine

/-- One line of a host program (30_encoding.md R148, R149). -/
inductive AsmLine
  /-- `WR reg, v`. -/
  | wr (r : Reg) (v : Word)
  /-- `WR index, v`, the index written as a number. -/
  | wrIndex (i : Index) (v : Word)
  /-- `RD reg`. -/
  | rd (r : Reg)
  /-- `PUSH BYTE_IN, u1, u2, ...`. -/
  | pushBytes (us : List Byte)
  /-- `PUSH SMP_IN, u1, u2, ...`. -/
  | pushSamples (us : List SampleUnit)
  /-- `PUSH SYM_IN, u1, u2, ...`. -/
  | pushSymbols (us : List SymbolUnit)
  /-- `EOS port`. -/
  | eos (p : InPort)
  /-- `POP port, m`. -/
  | pop (p : OutPort) (m : Nat)
  /-- `WRF reg, x`. -/
  | wrf (r : Reg) (x : Scalar)
  /-- `CMD NAME` and `CMD NAME, n`. -/
  | cmd (i : Instr)
  /-- `WAIT`, with the number of polls it took: the host reads STATUS until BUSY reads 0. -/
  | wait (polls : Nat)
  /-- `PUSHF SMP_IN, x1, ...`. -/
  | pushf (xs : List Scalar)
  /-- `PUSHC SYM_IN, (a1,b1), ...`. -/
  | pushc (zs : List Cx)
  /-- `CFGC i, a, b`. -/
  | cfgc (i : Nat) (a b : Scalar)
  /-- `QPSK`, the test constellation of 95_test_vectors.md. -/
  | qpsk
  deriving DecidableEq, Repr

/-- `CFGC i, a, b` (30_encoding.md R149). -/
def cfgcTxns (i : Nat) (a b : Scalar) : List HostTxn :=
  [.write (Reg.cfgConstRe i).index (bits64 a), .write (Reg.cfgConstIm i).index (bits64 b)]

/-- The transactions a line stands for (30_encoding.md R148, R149). -/
def AsmLine.expand : AsmLine → List HostTxn
  | .wr r v => [.write r.index v]
  | .wrIndex i v => [.write i v]
  | .rd r => [.read r.index]
  | .pushBytes us => us.map .pushByte
  | .pushSamples us => us.map .pushSmp
  | .pushSymbols us => us.map .pushSym
  | .eos p => [.eos p]
  | .pop p m => List.replicate m (.pop p)
  | .wrf r x => [.write r.index (bits64 x)]
  | .cmd i => [.write Reg.ctrl.index (encode i)]
  | .wait polls => List.replicate polls (.read Reg.status.index)
  | .pushf xs => xs.map fun x => .pushSmp (.real (bits64 x))
  | .pushc zs => zs.map fun z => .pushSym ⟨bits64 z.re, bits64 z.im⟩
  | .cfgc i a b => cfgcTxns i a b
  | .qpsk => cfgcTxns 0 1 1 ++ cfgcTxns 1 (-1) 1 ++ cfgcTxns 2 1 (-1) ++ cfgcTxns 3 (-1) (-1)

/-- The turns of a host program, at most `burst` engine steps after each transaction. -/
def asmTurns (burst : Nat) (prog : List AsmLine) : List Turn :=
  (prog.flatMap AsmLine.expand).map fun t => { txn := t, burst := burst }

end Sys2Proof.Machine
end

