-- ==== Sys2Proof/Safety.lean ====
section
/-! DEFINITION. The terms claims about the machine use: the invariants of a run, and the rules' outcomes said without the
engine's steps (what a resampled stream, a demodulated stream and a parsed bit stream are). Nothing here is part of the
machine. -/

namespace Sys2Proof

/-- The instance's four operations are those of the reals, as the rules state them (00_scope.md R12; log entry 2). -/
structure NumTable.Exact (num : NumTable) : Prop where
  add : ∀ a b, num.add a b = a + b
  sub : ∀ a b, num.sub a b = a - b
  mul : ∀ a b, num.mul a b = a * b
  div : ∀ a b, num.div a b = a / b

end Sys2Proof

namespace Sys2Proof.Machine

/-! ### Invariants -/

/-- RS_POS, RS_RATIO and CLK_FREQ show the resampler's position and ratio (10_state.md R49, R51). CLK_FREQ is the instance's
difference r − 1, or the +0.0 that reset and SRST write beside the ratio 1; in exact arithmetic the two are one. -/
structure State.Mirrors (s : State) : Prop where
  pos : s.reg.rsPos = bits64 s.rs.pos
  ratio : s.reg.rsRatio = bits64 s.rs.ratio
  freq : s.reg.clkFreq = bits64 (s.num.sub s.rs.ratio 1) ∨ (s.rs.ratio = 1 ∧ s.reg.clkFreq = bits64 0)

/-- No port holds more units than its capacity (10_state.md R60). -/
structure State.PortsBounded (s : State) : Prop where
  byteIn : s.port.byteIn.length ≤ s.par.depth.byteIn
  byteOut : s.port.byteOut.length ≤ s.par.depth.byteOut
  smpOut : s.port.smpOut.length ≤ s.par.depth.smpOut
  smpIn : s.port.smpIn.length ≤ s.par.depth.smpIn
  symIn : s.port.symIn.length ≤ s.par.depth.symIn
  symOut : s.port.symOut.length ≤ s.par.depth.symOut
  dump : s.port.dump.length ≤ s.par.depth.dump

/-- Every register table is in its canonical form. -/
structure State.TablesCanonical (s : State) : Prop where
  bin : Table.wf 0 s.cfg.bin = true
  phref : Table.wf 0 s.cfg.phref = true
  constRe : Table.wf 0 s.cfg.constRe = true
  constIm : Table.wf 0 s.cfg.constIm = true
  train : Table.wf 0 s.cfg.train = true
  calRe : Table.wf f64One s.cal.re = true
  calIm : Table.wf 0 s.cal.im = true

/-- DONE, RESULT and CAUSE are clear while a command executes and before the first one; after an end DONE is set and RESULT
is 1 exactly when CAUSE = NONE (10_state.md R43; 60_exceptions.md R370, R374). -/
def State.StatusConsistent (s : State) : Prop :=
  (s.st.done = false ∧ s.st.result = false ∧ s.st.cause = .none) ∨
  (s.busy = false ∧ s.st.done = true ∧ s.st.result = decide (s.st.cause = .none))

/-- A receiver state RECV passes through; the others are IDLE and the terminal states (10_state.md R54). -/
def RxState.active : RxState → Bool
  | .searching => true
  | .calibrating => true
  | .receiving => true
  | .confirming => true
  | .idle => false
  | .done => false
  | .truncated => false
  | .noCarrier => false

/-- The phases of a command's rule in which it still produces; RECV's are in `recvPlace`. -/
def Phase.belongs (c : Instr) : Phase → Bool
  | .adv _ => match c with | .rsAdv _ => true | _ => false
  | .mod _ _ => match c with | .mod _ => true | _ => false
  | .demod _ _ => match c with | .demod _ => true | _ => false
  | .lead _ => decide (c = .send)
  | .preamble _ => decide (c = .send)
  | .data => decide (c = .send)
  | .emit _ _ => decide (c = .send)
  | .pad => decide (c = .send)
  | .trail _ => decide (c = .send)
  | .closing => false
  | .skip _ => false
  | .search => false
  | .refine => false
  | .calibrate => false
  | .receive _ => false
  | .rxBits _ _ => false
  | .confirm _ => false

/-- The actions a command other than RECV fixes in those phases: a push to its own output port, its counter, DEMOD's tracking
update. -/
def Act.belongs (c : Instr) : Act → Bool
  | .pushSmp _ => match c with | .demod _ => false | _ => true
  | .pushSym _ => match c with | .demod _ => true | _ => false
  | .track _ => match c with | .demod _ => true | _ => false
  | .countUp => true
  | .pushByte _ => false
  | .blockUp => false
  | .setRx _ => false
  | .clearByteIn => false
  | .clearSmpIn => false
  | .finish _ => false

/-- Where an executing command other than RECV stands, with the actions still fixed: a phase of its rule, or SEND's clean-up
and end (10_state.md R64, R85; 43_frame_tx.md R258). -/
def otherPlace (c : Instr) (todo : List Act) (ph : Phase) : Prop :=
  (ph.belongs c = true ∧ todo.all (Act.belongs c) = true) ∨
  (c = .send ∧ ph = .closing ∧ (todo = [.clearByteIn, .finish .none] ∨ todo = [.finish .none]))

/-- The ends of RECV: the terminal state and the cause that go together (44_frame_rx.md R320 to R322). -/
def recvEnds : List (RxState × Cause) := [(.done, .none), (.truncated, .truncated), (.noCarrier, .noCarrier)]

/-- Where an executing RECV stands, with the actions still fixed, and what RXSTATE shows there (10_state.md R54;
44_frame_rx.md R324). -/
def recvPlace (rx : RxState) (todo : List Act) : Phase → Prop
  | .skip _ => rx = .searching ∧ todo = []
  | .search => rx = .searching ∧ todo = []
  | .refine => rx = .searching ∧ todo = []
  | .calibrate => rx = .calibrating ∧ todo = []
  | .receive _ => rx = .receiving ∧ (todo = [] ∨ ∃ z, todo = [.track z])
  | .rxBits _ _ =>
    rx = .receiving ∧ (todo = [] ∨ todo = [.blockUp] ∨ todo = [.countUp] ∨ ∃ b, todo = [.pushByte b, .countUp])
  | .confirm _ =>
    (rx = .confirming ∧ todo = []) ∨ (rx = .receiving ∧ (todo = [.setRx .confirming] ∨
      ∃ z, todo = [.track z, .setRx .confirming]))
  | .closing =>
    ∃ e ∈ recvEnds, (rx.active = true ∧ todo = rxEnd e.1 e.2) ∨ (rx = e.1 ∧ todo = [.clearSmpIn, .finish e.2]) ∨
      (rx = e.1 ∧ todo = [.finish e.2])
  | _ => False

/-- The engine stands in the rule of the command it executes, and RXSTATE shows where RECV stands: an active state exactly
while RECV executes, until its end sets a terminal one (10_state.md R54, R55, R85; 44_frame_rx.md R324). -/
def State.EngineConsistent (s : State) : Prop :=
  match s.eng with
  | .idle => s.st.rx.active = false
  | .run .recv todo ph => recvPlace s.st.rx todo ph
  | .run c todo ph => s.st.rx.active = false ∧ otherPlace c todo ph

/-- A phase in which RECV demodulates data blocks (44_frame_rx.md R312). -/
def Phase.receiving : Phase → Bool
  | .receive _ => true
  | .rxBits _ _ => true
  | _ => false

/-- The receive codec is as its rules leave it: fewer than 8 bits wait to become a byte, and where data blocks are demodulated
there is a gain for each carrier (44_frame_rx.md R306, R313). -/
structure State.CodecConsistent (s : State) : Prop where
  bits : s.rx.rbits.length < 8
  gains : ∀ c todo ph, s.eng = .run c todo ph → ph.receiving = true → s.rx.gains.length = s.nCar

/-- The checks of the executing command hold (45_control.md R345: the configuration it was accepted with is frozen). -/
def State.ChecksHold (s : State) : Prop := ∀ c todo ph, s.eng = .run c todo ph → s.checks c = true

/-- The resampler's ratio is positive, with what that rests on, exact arithmetic among it (42_demodulator.md R234). -/
structure State.RatioPositive (s : State) : Prop where
  exact : s.num.Exact
  engine : s.EngineConsistent
  checks : s.ChecksHold
  ratio : 0 < s.rs.ratio

/-- The command has all its input: its input port carries the end-of-stream mark (30_encoding.md R141). -/
def State.InputMarked (s : State) : Instr → Prop
  | .send => s.port.byteInEos = true
  | .mod _ => s.port.symInEos = true
  | .recv => s.port.smpInEos = true
  | .demod _ => s.port.smpInEos = true
  | .rsAdv _ => s.port.smpInEos = true
  | .nop => True
  | .srst => True
  | .calClear => True
  | .rsInit => True
  | .rsRatio => True

/-- SMP_IN is empty without its mark. -/
def State.SmpInEmpty (s : State) : Prop := s.port.smpIn = [] ∧ s.port.smpInEos = false

/-- Why a command may hold: a unit it needs is not there, or a port it pushes to is full (00_scope.md R8; 20_memory.md R107,
R108; the Holds of 40_resampler.md R172, 41_modulator.md R200, 42_demodulator.md R220, 43_frame_tx.md R250, 44_frame_rx.md
R280). -/
def State.Holding (s : State) : Instr → Prop
  | .send => (s.port.byteIn = [] ∧ s.port.byteInEos = false) ∨ s.par.depth.smpOut ≤ s.port.smpOut.length
  | .mod _ => (s.port.symIn = [] ∧ s.port.symInEos = false) ∨ s.par.depth.smpOut ≤ s.port.smpOut.length
  | .rsAdv _ => s.SmpInEmpty ∨ s.par.depth.smpOut ≤ s.port.smpOut.length
  | .demod _ => s.SmpInEmpty ∨ s.par.depth.symOut ≤ s.port.symOut.length
  | .recv =>
    s.SmpInEmpty ∨ s.par.depth.byteOut ≤ s.port.byteOut.length ∨
    (s.dumpEn = true ∧ s.par.depth.dump ≤ s.port.dump.length)
  | .nop => False
  | .srst => False
  | .calClear => False
  | .rsInit => False
  | .rsRatio => False

/-- The engine is idle after a command's end; a RECV has left a terminal RXSTATE (60_exceptions.md R374; 44_frame_rx.md R320
to R322). -/
def State.EndedAfter (s : State) (c : Instr) : Prop :=
  s.busy = false ∧ s.st.done = true ∧ (c = .recv → s.st.rx = .done ∨ s.st.rx = .truncated ∨ s.st.rx = .noCarrier)

/-- Every output port has room for `m` units under the capacities `d` (10_state.md R60). -/
structure State.RoomFor (s : State) (d : Depths) (m : Nat) : Prop where
  byteOut : s.port.byteOut.length + m ≤ d.byteOut
  smpOut : s.port.smpOut.length + m ≤ d.smpOut
  symOut : s.port.symOut.length + m ≤ d.symOut
  dump : s.port.dump.length + m ≤ d.dump

/-! ### The configuration checks, spelled in the registers -/

/-- The register's pattern is finite and its value meets `p` (45_control.md R345). -/
def State.FiniteReg (s : State) (r : Reg) (p : Scalar → Prop) : Prop := ∃ x, f64 (s.regValue r) = some x ∧ p x

/-- Carrier check (45_control.md R346). -/
def State.CarrierRule (s : State) : Prop :=
  let n := (s.regValue .cfgN).toNat
  let k := (s.regValue .cfgK).toNat
  let bin := fun i => (s.regValue (.cfgBin i)).toNat
  1 ≤ k ∧ k ≤ s.par.kMax ∧ (∀ i < k, 1 ≤ bin i ∧ 2 * bin i < n) ∧ (∀ i < k, ∀ j < k, i ≠ j → bin i ≠ bin j) ∧
  ∀ i < k, s.FiniteReg (.cfgPhref i) fun _ => True

/-- Constellation check (45_control.md R347). -/
def State.ConstellationRule (s : State) : Prop :=
  let b := (s.regValue .cfgB).toNat
  let part := fun r => f64 (s.regValue r)
  1 ≤ b ∧ b ≤ s.par.bMax ∧
  (∀ i < 2 ^ b, s.FiniteReg (.cfgConstRe i) (fun _ => True) ∧ s.FiniteReg (.cfgConstIm i) fun _ => True) ∧
  ∀ i < 2 ^ b, ∀ j < 2 ^ b, i ≠ j →
    part (.cfgConstRe i) ≠ part (.cfgConstRe j) ∨ part (.cfgConstIm i) ≠ part (.cfgConstIm j)

/-- Demodulator check but for CAL (45_control.md R348). -/
def State.DemodRule (s : State) : Prop :=
  (s.regValue .cfgPilot).toNat < (s.regValue .cfgK).toNat ∧
  s.FiniteReg .cfgKp (fun x => 0 ≤ x ∧ x ≤ 1) ∧ s.FiniteReg .cfgKi (fun x => 0 ≤ x ∧ x ≤ 1)

/-- The CAL entries of the demodulator check, for DEMOD only (45_control.md R348). -/
def State.CalRule (s : State) : Prop :=
  ∀ k < (s.regValue .cfgK).toNat, s.FiniteReg (.calRe k) (fun _ => True) ∧ s.FiniteReg (.calIm k) fun _ => True

/-- PCM check, made only with PCM_EN = 1 (45_control.md R349, R355). -/
def State.PcmRule (s : State) : Prop :=
  (s.regValue .cfgFlags).getLsbD 1 = true → s.FiniteReg .cfgPcmScale fun x => 0 < x

/-- Ratio check (45_control.md R349). -/
def State.RatioRule (s : State) : Prop := s.FiniteReg .cfgRatio0 fun x => 0 < x

/-- Training check (45_control.md R353). -/
def State.TrainingRule (s : State) : Prop :=
  let l := (s.regValue .cfgLtrain).toNat
  1 ≤ l ∧ l ≤ s.par.lMax ∧
  ∀ t < l, ∀ k < (s.regValue .cfgK).toNat, (s.regValue (.cfgTrain t k)).toNat < 2 ^ (s.regValue .cfgB).toNat

/-- Receiver check (45_control.md R354). -/
def State.ReceiverRule (s : State) : Prop :=
  s.FiniteReg .cfgThresh (fun x => 0 < x ∧ x ≤ 1) ∧ 1 ≤ (s.regValue .cfgSearchLimit).toNat ∧
  (s.regValue .cfgConfirm).toNat ≤ (s.regValue .cfgSilStop).toNat

/-- The checks per command (45_control.md R355). -/
def State.CheckRules (s : State) : Instr → Prop
  | .nop => True
  | .srst => True
  | .calClear => True
  | .mod _ => s.CarrierRule ∧ s.PcmRule
  | .demod _ => s.CarrierRule ∧ s.ConstellationRule ∧ s.DemodRule ∧ s.CalRule ∧ s.PcmRule
  | .rsInit => s.RatioRule
  | .rsRatio => s.RatioRule
  | .rsAdv _ => s.PcmRule
  | .send => s.CarrierRule ∧ s.ConstellationRule ∧ s.TrainingRule ∧ s.PcmRule
  | .recv => s.CarrierRule ∧ s.ConstellationRule ∧ s.DemodRule ∧ s.TrainingRule ∧ s.ReceiverRule ∧ s.PcmRule

/-! ### Outcomes -/

/-- The real samples a sequence of SMP_IN units carries: each unit one, or with PCM_EN = 1 each pair of bytes one, a pending
low byte first (20_memory.md R109, R114). -/
def sampleStream (num : NumTable) (pcm : Bool) (sigma : Scalar) : Option Byte → List SampleUnit → List Scalar
  | _, [] => []
  | lo, u :: rest =>
    if pcm then
      match lo with
      | none => sampleStream num pcm sigma (some u.asByte) rest
      | some l => pcmValue num sigma l u.asByte :: sampleStream num pcm sigma none rest
    else u.asReal :: sampleStream num pcm sigma lo rest

/-- Every sample the resampler can reach: its buffer, then what SMP_IN holds (40_resampler.md R173). -/
def State.allSamples (s : State) : List Scalar := s.rs.buf ++ sampleStream s.num s.pcmEn s.sigma s.pcmLo s.port.smpIn

/-- The position `m` resampler steps after `pos` (40_resampler.md R175). -/
def rsPosition (num : NumTable) (ratio : Scalar) : Nat → Scalar → Scalar
  | 0, pos => pos
  | m + 1, pos => rsPosition num ratio m (num.add pos ratio)

/-- The values of RsAdvance(n) from position `pos` over the samples `buf`, stopping where they are exhausted
(40_resampler.md R174, R175). -/
def rsOutputs (num : NumTable) (buf : List Scalar) (ratio : Scalar) : Nat → Scalar → List Scalar
  | 0, _ => []
  | n + 1, pos =>
    if interpNeed num pos < (buf.length : Int) then
      Resampler.interp { buf := buf, pos := pos, ratio := ratio } num pos ::
        rsOutputs num buf ratio n (num.add pos ratio)
    else []

/-- The values of the next `n` resampler steps over every sample within reach, fewer where they are exhausted
(40_resampler.md R175). -/
def State.rsAhead (s : State) (n : Nat) : List Scalar := rsOutputs s.num s.allSamples s.rs.ratio n s.rs.pos

/-- The state with the position `m` resampler steps on (40_resampler.md R175). -/
def State.rsMoved (s : State) (m : Nat) : State := s.setPos (rsPosition s.num s.rs.ratio m s.rs.pos)

/-- The blocks of DEMOD n over the samples in `rs.buf`, and the state with the clock they leave (42_demodulator.md R220). -/
def State.demodBlocks (s : State) : Nat → List (List Cx) × State
  | 0 => ([], s)
  | n + 1 =>
    let w := rsOutputs s.num s.rs.buf s.rs.ratio s.nSym s.rs.pos
    let moved := s.rsMoved w.length
    if w.length < s.nSym then ([], moved)
    else
      let v := s.calibrated s.calGains w
      let r := State.demodBlocks (moved.track (s.pilotOf v)) n
      (v :: r.1, r.2)

/-- The first `m` blocks of the symbols in SYM_IN, K symbols a block (41_modulator.md R200). -/
def State.symbolBlocks (s : State) (m : Nat) : List (List Cx) :=
  (List.range m).map fun j => ((s.port.symIn.drop (j * s.nCar)).take s.nCar).map SymbolUnit.value

/-- The codec after a bit stream, and the payload bytes it delivered; nothing is parsed after the sentinel
(44_frame_rx.md R312 to R314). -/
def RxCodec.feed : RxCodec → List Bool → RxCodec × List Byte
  | r, [] => (r, [])
  | r, c :: cs =>
    if r.sentinel then (r, [])
    else
      let q := r.rxBit c
      let x := RxCodec.feed q.1 cs
      (x.1, q.2.toList ++ x.2)

/-- The carriers are exactly orthogonal over one block under the instance's arithmetic (41_modulator.md R207): the sums of
c_l·conj(c_k) are N for k = l and 0 otherwise, those of c_l·c_k are 0. -/
def State.orthogonal (s : State) : Bool :=
  decide (s.nSym ≠ 0) &&
  allBelow s.nCar fun k => allBelow s.nCar fun l =>
    decide (s.num.cxSum ((List.range s.nSym).map fun n => s.num.cxMul (s.carrier l n) (s.carrier k n).conj)
      = if k = l then ⟨(s.nSym : Scalar), 0⟩ else Cx.zero) &&
    decide (s.num.cxSum ((List.range s.nSym).map fun n => s.num.cxMul (s.carrier l n) (s.carrier k n)) = Cx.zero)

/-- Corr(d) over a sample sequence y (44_frame_rx.md R296). -/
def State.corrOver (s : State) (y : List Scalar) (d : Nat) : Scalar :=
  s.correlation ((y.drop d).take s.nPre) s.preamble

/-- STATUS after a command's end with cause c: REJ, WIGN and RXSTATE stay (60_exceptions.md R374). -/
def Status.ended (st : Status) (c : Cause) : Status :=
  { st with done := true, result := decide (c = .none), cause := c }

end Sys2Proof.Machine
end

