-- ==== Sys2Proof/Certificates/Slice0/Obligations.lean ====
section
/-! DEFINITION. The statements about the machine, each a formal reading of rules of spec/.

The engine's share of a turn, `burst`, and the field `reply` are the model's own (log entries 5 and 7). A statement that a
command completes says: from some burst on, the command's one turn takes the machine to the state the rules give. -/

open Sys2Proof Sys2Proof.Machine

/-! ### Command words (30_encoding.md) -/

/-- Decoding and encoding are inverse: decoding gives back every command with a 24-bit count, also in the opcode table's
numbering, and a word that decodes is the encoding of the well-formed command it decodes to, so no two words mean one command
(30_encoding.md R140, R141, R145, R147). -/
def Obligations.DecodeInvertsEncode : Prop :=
  (∀ i : Instr, i.wellFormed = true →
    decodeWord (encode i) = .ok i ∧ decodeTableWord 64 (encode i).toNat = some i) ∧
  (∀ (v : Word) (i : Instr), decodeWord v = .ok i → i.wellFormed = true ∧ encode i = v)

/-- The decoding function of 30_encoding.md R147 in plain arithmetic on the word's number, total on every 64-bit value. -/
def Obligations.DecodingFunction : Prop :=
  ∀ v : Word,
    let n := v.toNat % 2 ^ 24
    let plain := fun i : Instr => if n = 0 then some i else none
    (decodeWord v).toOption =
      if v.toNat / 2 ^ 32 ≠ 0 then none
      else
        match v.toNat / 2 ^ 24 % 256 with
        | 0x00 => plain .nop
        | 0x01 => plain .srst
        | 0x02 => plain .calClear
        | 0x10 => plain .send
        | 0x11 => plain .recv
        | 0x20 => some (.mod n)
        | 0x21 => some (.demod n)
        | 0x30 => plain .rsInit
        | 0x31 => plain .rsRatio
        | 0x32 => some (.rsAdv n)
        | _ => none

/-- The command word values of 30_encoding.md R150, both ways, and its three illegal words. -/
def Obligations.CommandWordValues : Prop :=
  (∀ p ∈ ([(.nop, 0x0000000000000000#64), (.srst, 0x0000000001000000#64), (.calClear, 0x0000000002000000#64),
      (.send, 0x0000000010000000#64), (.recv, 0x0000000011000000#64), (.mod 2, 0x0000000020000002#64),
      (.demod 12, 0x000000002100000C#64), (.rsInit, 0x0000000030000000#64), (.rsRatio, 0x0000000031000000#64),
      (.rsAdv 10, 0x000000003200000A#64), (.rsAdv 16777215, 0x0000000032FFFFFF#64)] : List (Instr × Word)),
    encode p.1 = p.2 ∧ decodeWord p.2 = .ok p.1) ∧
  (∀ v ∈ ([0x10000001#64, 0x40000000#64, 0x0000000100000000#64] : List Word), (decodeWord v).toOption = none)

/-- A turn whose transaction writes a word to CTRL runs the command the word decodes to, or ends it ILLEGAL; any other turn
performs its transaction; then the engine takes its share of the turn (45_control.md R340; 20_memory.md R116). With no
transaction to come the engine runs on, and one that is idle or holds leaves the machine as it is (60_exceptions.md R388). -/
def Obligations.StepRunsDecodedCommand : Prop :=
  (∀ (s : State) (v : Word) (burst : Nat) (rest : List Turn) (i : Instr),
    s.sched = { txn := .write ctrlIndex v, burst := burst } :: rest → decodeWord v = .ok i →
    step s = exec i { s with sched := rest, burst := burst, reply := .none }) ∧
  (∀ (s : State) (v : Word) (burst : Nat) (rest : List Turn) (e : DecodeError),
    s.sched = { txn := .write ctrlIndex v, burst := burst } :: rest → decodeWord v = .error e →
    step s = .next (State.issueIllegal { s with sched := rest, burst := burst, reply := .none }).drive) ∧
  (∀ (s : State) (t : Turn) (rest : List Turn), s.sched = t :: rest → (∀ v, t.txn ≠ .write ctrlIndex v) →
    step s = .next (State.transact { s with sched := rest, burst := t.burst, reply := .none } t.txn).drive) ∧
  (∀ (s : State) (w : Nat) (i : Instr), decodeTableWord 64 w = some i →
    step (s.withFetchWord 64 w) = exec i { s with reply := .none }) ∧
  (∀ s : State, s.sched = [] → step s = .next (State.runEngine (s.burst + 1) s)) ∧
  (∀ s : State, s.busy = false ∨ s.engineStep = none → ∀ k, State.runEngine k s = s)

/-! ### Registers (10_state.md) -/

/-- What reset leaves, from any state (the reset event) and in the model's reset state: every register its reset value, the
engine idle, every port empty, the resampler and the codec cleared (10_state.md R90). -/
def Obligations.ResetValues : Prop :=
  ∀ t : State, (t = State.reset ∨ ∃ s : State, t = s.transact .reset) →
    (∀ r : Reg, t.regValue r = r.resetValue) ∧
    t.eng = .idle ∧ t.st.rx = .idle ∧
    t.port = { byteIn := [], byteInEos := false, byteOut := [], smpOut := [], smpIn := [], smpInEos := false, symIn := [],
               symInEos := false, symOut := [], dump := [] } ∧
    t.pcmLo = none ∧ t.rs = { buf := [], pos := 0, ratio := 1 } ∧
    t.rx.rbits = [] ∧ t.tx.tbits = [] ∧ t.tx.tbuf = [] ∧ t.rx.hdr = true ∧ t.rx.remaining = 0 ∧ t.rx.sentinel = false ∧
    t.rx.d = 0 ∧ t.rx.d0 = 0 ∧ t.rx.dbest = 0 ∧ t.rx.cbest = 0

/-- The register map (10_state.md R40): the index of every row of its table, every entry of its tables included; every
implemented register has that one index, and every index names at most one register. -/
def Obligations.RegisterMapRoundTrip : Prop :=
  (∀ p ∈ ([(.id, 0), (.ctrl, 1), (.status, 2), (.count, 3), (.rxConsumed, 4), (.rxBlocks, 5), (.detOffset, 6), (.detPeak, 7),
      (.clkFreq, 8), (.clkPhase, 9), (.rsPos, 0xA), (.rsRatio, 0xB)] ++
      [(.cfgFs, 0x10), (.cfgN, 0x11), (.cfgK, 0x12), (.cfgB, 0x13), (.cfgLtrain, 0x14), (.cfgSilStart, 0x15),
       (.cfgSilStop, 0x16), (.cfgConfirm, 0x17), (.cfgPilot, 0x18), (.cfgSearchLimit, 0x19), (.cfgSkip, 0x1A)] ++
      [(.cfgFlags, 0x1B), (.cfgThresh, 0x1C), (.cfgKp, 0x1D), (.cfgKi, 0x1E), (.cfgRatio0, 0x1F), (.cfgPcmScale, 0x20)]
      : List (Reg × Nat)), p.1.index.toNat = p.2) ∧
  (∀ k < 256, (Reg.cfgBin k).index.toNat = 0x100 + k ∧ (Reg.cfgPhref k).index.toNat = 0x200 + k ∧
    (Reg.cfgConstRe k).index.toNat = 0x300 + k ∧ (Reg.cfgConstIm k).index.toNat = 0x400 + k ∧
    (Reg.calRe k).index.toNat = 0x500 + k ∧ (Reg.calIm k).index.toNat = 0x600 + k) ∧
  (∀ t < 4096, ∀ k < 256, (Reg.cfgTrain t k).index.toNat = 0x100000 + 256 * t + k) ∧
  ∀ p : Params, p.ok = true →
    (∀ r : Reg, r.implemented p = true → regAt p r.index = some r) ∧
    (∀ (ix : Index) (r : Reg), regAt p ix = some r → r.implemented p = true ∧ r.index = ix)

/-- A read answers the register's value and changes nothing but the answer (log entry 7), that of indices 3 to 0xB the nine
progress registers; a reserved index reads 0 and a write to it is ignored and sets WIGN; CTRL reads 0; a u32 register reads 0
above bit 31 (10_state.md R40, R41, R44 to R51, R56, R58). -/
def Obligations.ReadsAndReservedIndices : Prop :=
  ∀ s : State, s.par.ok = true →
    (∀ r : Reg, r.implemented s.par = true →
      s.transact (.read r.index) = { s with reply := .word (s.regValue r) }) ∧
    (∀ q ∈ ([(3, s.reg.count), (4, s.reg.rxConsumed), (5, s.reg.rxBlocks), (6, s.reg.detOffset), (7, s.reg.detPeak),
        (8, s.reg.clkFreq), (9, s.reg.clkPhase), (0xA, s.reg.rsPos), (0xB, s.reg.rsRatio)] : List (Index × Word)),
      s.transact (.read q.1) = { s with reply := .word q.2 }) ∧
    s.regValue .ctrl = 0 ∧ s.regValue .id = 0x00000001414D4F44#64 ∧
    (∀ r ∈ [Reg.cfgFs, .cfgN, .cfgK, .cfgB, .cfgLtrain, .cfgSilStart, .cfgSilStop, .cfgConfirm, .cfgPilot,
        .cfgSearchLimit, .cfgSkip], (s.regValue r).toNat < 2 ^ 32) ∧
    (∀ k t : Nat, (s.regValue (.cfgBin k)).toNat < 2 ^ 32 ∧ (s.regValue (.cfgTrain t k)).toNat < 2 ^ 32) ∧
    (∀ ix : Index, (∀ r : Reg, r.implemented s.par = true → r.index ≠ ix) →
      s.transact (.read ix) = { s with reply := .word 0 } ∧
      ∀ v, s.transact (.write ix v) = { s with st := { s.st with wign := true } })

/-- Host writes of registers (10_state.md R57). Idle, a configuration register stores the part of the value its type holds
and every other register reads as before; busy, the write is ignored and sets WIGN; a write to a read-only register is
ignored and sets WIGN. -/
def Obligations.RegisterWrites : Prop :=
  ∀ (s : State) (r : Reg) (v : Word), s.par.ok = true → s.TablesCanonical → r.implemented s.par = true →
    (r.access = .config → s.busy = false →
      let t := s.transact (.write r.index v)
      t.regValue r = r.stored v ∧
      (∀ r' : Reg, r'.implemented s.par = true → r' ≠ r → t.regValue r' = s.regValue r') ∧
      t = { s with cfg := t.cfg, cal := t.cal }) ∧
    (r.access = .config → s.busy = true →
      s.transact (.write r.index v) = { s with st := { s.st with wign := true } }) ∧
    (r.access = .readOnly → s.transact (.write r.index v) = { s with st := { s.st with wign := true } })

/-- STATUS: its fields' places and codes (10_state.md R43, R54; 60_exceptions.md R370), and what a write clears, busy or
not (10_state.md R59). -/
def Obligations.StatusRegister : Prop :=
  ∀ s : State,
    (let w := s.regValue .status
     w.getLsbD 0 = s.busy ∧ w.getLsbD 1 = s.st.done ∧ w.getLsbD 2 = s.st.result ∧ w.getLsbD 3 = s.st.rej ∧
     w.getLsbD 4 = s.st.wign ∧ w.extractLsb' 5 3 = 0 ∧ w.extractLsb' 16 48 = 0 ∧
     (w.extractLsb' 8 4).toNat =
       (match s.st.cause with
        | .none => 0 | .noCarrier => 1 | .truncated => 2 | .illegal => 3 | .badConfig => 4 | .aborted => 5) ∧
     (w.extractLsb' 12 4).toNat =
       (match s.st.rx with
        | .idle => 0 | .searching => 1 | .calibrating => 2 | .receiving => 3 | .confirming => 4 | .done => 5
        | .truncated => 6 | .noCarrier => 7)) ∧
    (∀ v : Word, s.transact (.write 2#32 v) =
      { s with st := { s.st with
          rej := if v.getLsbD 3 then false else s.st.rej
          wign := if v.getLsbD 4 then false else s.st.wign } })

/-! ### Ports, bits and samples (20_memory.md) -/

/-- The host's port transactions (20_memory.md R106): a push lands only in a port with room and no mark, EOS sets the mark, a
pop returns the oldest unit; the answer of one that is not performed is the model's own (log entry 7). -/
def Obligations.HostPortTransactions : Prop :=
  ∀ s : State,
    (∀ b, s.transact (.pushByte b) =
      if s.port.byteIn.length < s.par.depth.byteIn ∧ s.port.byteInEos = false then
        { s with port := { s.port with byteIn := s.port.byteIn ++ [b] } }
      else { s with reply := .notPerformed }) ∧
    (∀ u, s.transact (.pushSmp u) =
      if s.port.smpIn.length < s.par.depth.smpIn ∧ s.port.smpInEos = false then
        { s with port := { s.port with smpIn := s.port.smpIn ++ [u] } }
      else { s with reply := .notPerformed }) ∧
    (∀ u, s.transact (.pushSym u) =
      if s.port.symIn.length < s.par.depth.symIn ∧ s.port.symInEos = false then
        { s with port := { s.port with symIn := s.port.symIn ++ [u] } }
      else { s with reply := .notPerformed }) ∧
    s.transact (.eos .byteIn) = { s with port := { s.port with byteInEos := true } } ∧
    s.transact (.eos .smpIn) = { s with port := { s.port with smpInEos := true } } ∧
    s.transact (.eos .symIn) = { s with port := { s.port with symInEos := true } } ∧
    (∀ b rest, s.port.byteOut = b :: rest →
      s.transact (.pop .byteOut) = { s with port := { s.port with byteOut := rest }, reply := .byte b }) ∧
    (∀ u rest, s.port.smpOut = u :: rest →
      s.transact (.pop .smpOut) = { s with port := { s.port with smpOut := rest }, reply := .sample u }) ∧
    (∀ u rest, s.port.symOut = u :: rest →
      s.transact (.pop .symOut) = { s with port := { s.port with symOut := rest }, reply := .symbol u }) ∧
    (∀ u rest, s.port.dump = u :: rest →
      s.transact (.pop .dump) = { s with port := { s.port with dump := rest }, reply := .sample u }) ∧
    (s.port.byteOut = [] → s.transact (.pop .byteOut) = { s with reply := .notPerformed }) ∧
    (s.port.smpOut = [] → s.transact (.pop .smpOut) = { s with reply := .notPerformed }) ∧
    (s.port.symOut = [] → s.transact (.pop .symOut) = { s with reply := .notPerformed }) ∧
    (s.port.dump = [] → s.transact (.pop .dump) = { s with reply := .notPerformed })

/-- The engine's Pop and Push (20_memory.md R107, R108), and the RECV pop that counts the unit and mirrors it to DUMP
(44_frame_rx.md R325): taken, EOS, or a hold. -/
def Obligations.EnginePortActions : Prop :=
  ∀ s : State,
    (∀ b rest, s.port.byteIn = b :: rest → s.popByte = .got b { s with port := { s.port with byteIn := rest } }) ∧
    (s.port.byteIn = [] → s.popByte = if s.port.byteInEos then .eos else .hold) ∧
    (∀ u rest, s.port.symIn = u :: rest → s.popSym = .got u { s with port := { s.port with symIn := rest } }) ∧
    (s.port.symIn = [] → s.popSym = if s.port.symInEos then .eos else .hold) ∧
    (∀ recv, s.port.smpIn = [] → s.popSmp recv = if s.port.smpInEos then .eos else .hold) ∧
    (∀ u rest, s.port.smpIn = u :: rest →
      s.popSmp false = .got u { s with port := { s.port with smpIn := rest } } ∧
      (s.cfg.flags.getLsbD 0 = false → s.popSmp true = .got u { s with
        port := { s.port with smpIn := rest }, reg := { s.reg with rxConsumed := s.reg.rxConsumed + 1 } }) ∧
      (s.cfg.flags.getLsbD 0 = true → s.port.dump.length < s.par.depth.dump → s.popSmp true = .got u { s with
        port := { s.port with smpIn := rest, dump := s.port.dump ++ [u] }
        reg := { s.reg with rxConsumed := s.reg.rxConsumed + 1 } }) ∧
      (s.cfg.flags.getLsbD 0 = true → s.par.depth.dump ≤ s.port.dump.length → s.popSmp true = .hold)) ∧
    (∀ b, s.pushByte b = if s.port.byteOut.length < s.par.depth.byteOut then
      some { s with port := { s.port with byteOut := s.port.byteOut ++ [b] } } else none) ∧
    (∀ u, s.pushSmp u = if s.port.smpOut.length < s.par.depth.smpOut then
      some { s with port := { s.port with smpOut := s.port.smpOut ++ [u] } } else none) ∧
    (∀ u, s.pushSym u = if s.port.symOut.length < s.par.depth.symOut then
      some { s with port := { s.port with symOut := s.port.symOut ++ [u] } } else none)

/-- PopSample (20_memory.md R109, R114): with PCM_EN = 0 a unit is a sample; with PCM_EN = 1 the first byte waits in
`pcm_lo` and the second makes the sample q / σ, under the instance's division, of the two bytes read as 16-bit two's
complement, low byte first. -/
def Obligations.SampleDecoding : Prop :=
  ∀ (s t : State) (u : SampleUnit) (recv : Bool), s.popSmp recv = .got u t →
    (s.cfg.flags.getLsbD 1 = false → ∀ w, u = .real w →
      s.popSample recv = .got (some ((f64 w).getD 0)) t) ∧
    (s.cfg.flags.getLsbD 1 = true → ∀ b, u = .pcm b →
      (s.pcmLo = none → s.popSample recv = .got none { t with pcmLo := some b }) ∧
      (∀ lo, s.pcmLo = some lo →
        let n := b.toNat * 256 + lo.toNat
        s.popSample recv = .got
          (some (s.num.div (((if n < 32768 then (n : Int) else (n : Int) - 65536) : Int) : Scalar)
            (realOf s.cfg.pcmScale)))
          { t with pcmLo := none }))

/-- The PCM round-trip laws (20_memory.md R115), in the exact arithmetic the rule is stated in (00_scope.md R12). -/
def Obligations.PcmRoundTrip : Prop :=
  ∀ (num : NumTable) (sigma : Scalar), num.Exact → 0 < sigma →
    (∀ lo hi : Byte, pcmPattern num sigma (pcmValue num sigma lo hi) = hi ++ lo) ∧
    (∀ x : Scalar, |x * sigma| ≤ 32767 →
      let w := pcmPattern num sigma x
      |pcmValue num sigma (w.extractLsb' 0 8) (w.extractLsb' 8 8) - x| ≤ 1 / (2 * sigma))

/-- PCM encoding (20_memory.md R113): two byte units, low byte first, of a 16-bit value within one half of the instance's
product x·σ, the even one of two, and saturated outside the 16-bit range. -/
def Obligations.PcmEncodeSaturates : Prop :=
  ∀ (s : State) (x : Scalar), s.cfg.flags.getLsbD 1 = true →
    let w := pcmPattern s.num s.sigma x
    let p := s.num.mul x (realOf s.cfg.pcmScale)
    s.sampleUnits x = [.pcm (w.extractLsb' 0 8), .pcm (w.extractLsb' 8 8)] ∧
    (32767 ≤ p → w.toInt = 32767) ∧
    (p ≤ -32768 → w.toInt = -32768) ∧
    (-32768 ≤ p → p ≤ 32767 →
      |(w.toInt : Scalar) - p| ≤ 1 / 2 ∧ (|(w.toInt : Scalar) - p| = 1 / 2 → w.toInt % 2 = 0))

/-- Bit orders (20_memory.md R110, R111; 43_frame_tx.md R256): a byte's bits least significant first and back; carrier k of
a block takes B bits from bit k·B on, the first the least significant; the blocks take the stream's bits in order and only
the last is padded, with zeros. -/
def Obligations.BitOrders : Prop :=
  (∀ b : Byte, (∀ i < 8, (bitsOfByte b)[i]? = some (b.getLsbD i)) ∧ (bitsOfByte b).length = 8 ∧
    byteOfBits (bitsOfByte b) = b) ∧
  (∀ bits : List Bool, bits.length = 8 → bitsOfByte (byteOfBits bits) = bits) ∧
  (∀ (bits : List Bool) (i : Nat), (natOfBits bits).testBit i = (bits[i]?).getD false) ∧
  (∀ bits : List Bool, bitsOfNat bits.length (natOfBits bits) = bits) ∧
  (∀ (b k n : Nat) (bits : List Bool), k < n →
    (blockIndices b n bits)[k]? = some (natOfBits ((bits.drop (k * b)).take b))) ∧
  (∀ (cap : Nat) (bits : List Bool), 0 < cap →
    (∀ x ∈ bitBlocks cap bits, x.length = cap) ∧
    ∃ z, z < cap ∧ (bitBlocks cap bits).flatten = bits ++ List.replicate z false)

/-- `bits64` is exact on the values of finite patterns, but for the sign of zero; a pattern has no value exactly when its
exponent field is all ones (00_scope.md R14). -/
def Obligations.Binary64Exact : Prop :=
  (∀ (w : Word) (x : Scalar), f64 w = some x → x ≠ 0 → bits64 x = w) ∧ bits64 0 = 0#64 ∧
  (∀ w : Word, f64 w = none ↔ w.toNat / 2 ^ 52 % 2048 = 2047)

/-- `bits64(x)` is a finite pattern nearest to x, ties to even (00_scope.md R14), for every x below 2^1024 − 2^970 in size,
where the rounded value has a finite pattern; from there on the pattern is free (log entry 9). -/
def Obligations.Binary64Nearest : Prop :=
  ∀ x : Scalar, |x| < pow2 1024 - pow2 970 → ∃ z, f64 (bits64 x) = some z ∧
    ∀ (w : Word) (y : Scalar), f64 w = some y →
      |z - x| ≤ |y - x| ∧ (|z - x| = |y - x| → y ≠ z → (bits64 x).getLsbD 0 = false)

/-! ### Issue, checks and ends (45_control.md, 60_exceptions.md) -/

/-- An illegal word written while idle ends at once with cause ILLEGAL; only STATUS and COUNT change
(60_exceptions.md R371). -/
def Obligations.IllegalWordEnds : Prop :=
  ∀ (s : State) (v : Word) (e : DecodeError), s.busy = false → decodeWord v = .error e →
    command v s = .next { s with
      st := { s.st with done := true, result := false, cause := .illegal }
      reg := { s.reg with count := 0 } }

/-- A word written to CTRL while the engine runs, legal or not, other than the exact SRST word, sets REJ and has no other
effect; the engine goes on with its share of the turn (45_control.md R342). -/
def Obligations.BusyRejects : Prop :=
  ∀ (s : State) (v : Word), s.busy = true → v ≠ 0x0000000001000000#64 →
    command v s = .next (State.drive { s with st := { s.st with rej := true } })

/-- The checks each command makes are the conditions 45_control.md R346 to R349, R353 and R354 spell in the registers, as
the table of R355 lists them, in any state; a command whose conditions do not all hold ends with cause BAD_CONFIG: only
STATUS and COUNT change and no port is emptied (60_exceptions.md R372). -/
def Obligations.FailedCheckEnds : Prop :=
  ∀ (s : State) (i : Instr),
    (s.checks i = true ↔ s.CheckRules i) ∧
    (s.busy = false → ¬ s.CheckRules i →
      exec i s = .next { s with
        st := { s.st with done := true, result := false, cause := .badConfig }
        reg := { s.reg with count := 0 } })

/-- A command ends in one step that changes only the engine mode and DONE, RESULT and CAUSE; every other step leaves the
command executing and those fields as they are (60_exceptions.md R374). -/
def Obligations.EndIsAtomic : Prop :=
  ∀ s t : State, s.engineStep = some t →
    (t.busy = true ∧ t.st.done = s.st.done ∧ t.st.result = s.st.result ∧ t.st.cause = s.st.cause) ∨
    (∃ c : Cause, t = { s with
      eng := .idle, st := { s.st with done := true, result := decide (c = .none), cause := c } })

/-- NOP: only the status update and COUNT = 0; while busy it is rejected (45_control.md R350). -/
def Obligations.NopEffect : Prop :=
  ∀ s : State,
    (s.busy = false → exec .nop s = .next { s with
      st := { s.st with done := true, result := true, cause := .none }, reg := { s.reg with count := 0 } }) ∧
    (s.busy = true → exec .nop s = .next (State.drive { s with st := { s.st with rej := true } }))

/-- SRST, while busy and while idle: the same effects, the cause ABORTED or NONE; configuration, tables and CAL are kept
(45_control.md R351; 10_state.md R65). -/
def Obligations.SrstEffect : Prop :=
  ∀ s : State, exec .srst s = .next { s with
    eng := .idle
    st := { done := true, result := !s.busy, cause := if s.busy then .aborted else .none, rej := false, wign := false,
            rx := .idle }
    reg := { count := 0, rxConsumed := 0, rxBlocks := 0, detOffset := 0, detPeak := bits64 0, clkFreq := bits64 0,
             clkPhase := bits64 0, rsPos := bits64 0, rsRatio := bits64 1 }
    port := { byteIn := [], byteInEos := false, byteOut := [], smpOut := [], smpIn := [], smpInEos := false, symIn := [],
              symInEos := false, symOut := [], dump := [] }
    pcmLo := none
    rs := { buf := [], pos := 0, ratio := 1 }
    rx := { rbits := [], hdr := true, remaining := 0, sentinel := false, d := 0, d0 := 0, dbest := 0, cbest := 0,
            gains := [] }
    tx := { tbuf := [], tbits := [] } }

/-- CAL_CLEAR while idle: every CAL entry below K_MAX is 1 + 0j, COUNT = 0, the command ends NONE, and nothing else changes
(45_control.md R352). -/
def Obligations.CalClearEffect : Prop :=
  ∀ s : State, s.busy = false → s.TablesCanonical → ∃ c : Cal,
    exec .calClear s = .next { s with
      cal := c, st := { s.st with done := true, result := true, cause := .none }, reg := { s.reg with count := 0 } } ∧
    ∀ k < s.par.kMax, Table.get f64One c.re k = bits64 1 ∧ Table.get 0 c.im k = bits64 0

/-! ### Resampler (40_resampler.md) -/

/-- RS_INIT and RS_RATIO while idle. With CFG_RATIO0 a positive finite r₀: RS_INIT empties the buffer, sets the position 0
and the ratio r₀, with their mirrors; RS_RATIO changes only the ratio and its mirrors. Otherwise both end BAD_CONFIG. SMP_IN
and `pcm_lo` are not touched (40_resampler.md R170, R171). -/
def Obligations.RsInitAndRsRatioEffects : Prop :=
  ∀ s : State, s.busy = false →
    (∀ r0, f64 s.cfg.ratio0 = some r0 → 0 < r0 →
      exec .rsInit s = .next { s with
        rs := { buf := [], pos := 0, ratio := r0 }
        reg := { s.reg with count := 0, rsPos := bits64 0, rsRatio := bits64 r0, clkFreq := bits64 (s.num.sub r0 1),
                            clkPhase := bits64 0 }
        st := { s.st with done := true, result := true, cause := .none } } ∧
      exec .rsRatio s = .next { s with
        rs := { s.rs with ratio := r0 }
        reg := { s.reg with count := 0, rsRatio := bits64 r0, clkFreq := bits64 (s.num.sub r0 1) }
        st := { s.st with done := true, result := true, cause := .none } }) ∧
    ((∀ r0, f64 s.cfg.ratio0 = some r0 → r0 ≤ 0) → ∀ i ∈ [Instr.rsInit, .rsRatio], exec i s = .next { s with
      reg := { s.reg with count := 0 }
      st := { s.st with done := true, result := false, cause := .badConfig } })

/-- The kernel (40_resampler.md R174, R178), in exact arithmetic: it reads up to ⌈q⌉, answers a sample at an integer position
and lies on the straight line between the two samples around any other, both ends included, so neighbouring pieces meet. -/
def Obligations.InterpolationIsPiecewiseLinear : Prop :=
  ∀ (num : NumTable) (r : Resampler) (q : Scalar) (j : Int), num.Exact →
    interpNeed num q = q.ceil ∧ r.interp num (j : Scalar) = r.at j ∧
    ((j : Scalar) ≤ q → q ≤ (j : Scalar) + 1 →
      r.interp num q = ((j : Scalar) + 1 - q) * r.at j + (q - (j : Scalar)) * r.at (j + 1))

/-- The identity law (40_resampler.md R177), in exact arithmetic: at ratio 1 from position 0 on an empty buffer, RS_ADV n over
L samples and end of stream, n ≥ L, produces exactly those samples. That one turn takes it there is log entry 5. -/
def Obligations.RsAdvIdentity : Prop :=
  ∀ (s : State) (n : Nat), s.num.Exact → s.busy = false → s.Mirrors → s.cfg.flags.getLsbD 1 = false →
    s.rs = { buf := [], pos := 0, ratio := 1 } → s.port.smpInEos = true → s.port.smpIn.length ≤ n →
    s.port.smpOut.length + s.port.smpIn.length ≤ s.par.depth.smpOut →
    let xs := s.port.smpIn.map SampleUnit.asReal
    ∃ k, ∀ b, k ≤ b → exec (.rsAdv n) { s with burst := b } = .next { s with
      burst := b
      port := { s.port with smpIn := [], smpOut := s.port.smpOut ++ xs.map fun x => .real (bits64 x) }
      rs := { buf := xs, pos := (xs.length : Scalar), ratio := 1 }
      reg := { s.reg with count := BitVec.ofNat 64 xs.length, rsPos := bits64 (xs.length : Scalar) }
      st := { s.st with done := true, result := true, cause := .none } }

/-- RS_ADV n (40_resampler.md R172, R175): the values of n resampler steps over the buffer and SMP_IN, fewer when the input
ends, are pushed and counted; the position advances by the ratio for each, in exact arithmetic to pos + m·ratio; no sample is
lost or made up. -/
def Obligations.RsAdvComputes : Prop :=
  ∀ (s : State) (n : Nat), s.busy = false → s.Mirrors → s.checks (.rsAdv n) = true →
    let ys := s.rsAhead n
    (s.port.smpInEos = true ∨ ys.length = n) →
    s.port.smpOut.length + (ys.flatMap s.sampleUnits).length ≤ s.par.depth.smpOut →
    ∃ k, ∀ b, k ≤ b → ∃ t, exec (.rsAdv n) { s with burst := b } = .next t ∧
      t.busy = false ∧ t.st = s.st.ended .none ∧
      t.port.smpOut = s.port.smpOut ++ ys.flatMap s.sampleUnits ∧
      t.rs.pos = (s.rsMoved ys.length).rs.pos ∧ t.rs.ratio = s.rs.ratio ∧
      (s.num.Exact → t.rs.pos = s.rs.pos + (ys.length : Scalar) * s.rs.ratio) ∧
      t.reg = { s.reg with count := BitVec.ofNat 64 ys.length, rsPos := bits64 t.rs.pos } ∧
      t.allSamples = s.allSamples

/-! ### Modulator and demodulator (41_modulator.md, 42_demodulator.md) -/

/-- MOD n (41_modulator.md R200, R201, R203): as many whole blocks as n and the symbols allow are synthesized, pushed and
counted; with n blocks available exactly their symbols are taken, otherwise all of them, the partial block discarded. -/
def Obligations.ModComputes : Prop :=
  ∀ (s : State) (n : Nat), s.busy = false → s.checks (.mod n) = true →
    (s.port.symInEos = true ∨ n * s.nCar ≤ s.port.symIn.length) →
    let m := min n (s.port.symIn.length / s.nCar)
    let units := (s.modulate (s.symbolBlocks m)).flatMap s.sampleUnits
    s.port.smpOut.length + units.length ≤ s.par.depth.smpOut →
    ∃ k, ∀ b, k ≤ b → exec (.mod n) { s with burst := b } = .next { s with
      burst := b
      port := { s.port with symIn := s.port.symIn.drop (n * s.nCar), smpOut := s.port.smpOut ++ units }
      reg := { s.reg with count := BitVec.ofNat 64 m }
      st := { s.st with done := true, result := true, cause := .none } }

/-- DEMOD n (42_demodulator.md R220): the calibrated symbols of each whole window, the tracking update after each block,
COUNT blocks; the input's end is a short result. `demodBlocks` gives the blocks and the clock over all samples within
reach. -/
def Obligations.DemodComputes : Prop :=
  ∀ (s : State) (n : Nat), s.busy = false → s.Mirrors → s.checks (.demod n) = true →
    let q := State.demodBlocks { s with rs := { s.rs with buf := s.allSamples } } n
    let symbols := q.1.flatten.map symbolUnit
    (s.port.smpInEos = true ∨ q.1.length = n) →
    s.port.symOut.length + symbols.length ≤ s.par.depth.symOut →
    ∃ k, ∀ b, k ≤ b → ∃ t, exec (.demod n) { s with burst := b } = .next t ∧
      t.busy = false ∧ t.st = s.st.ended .none ∧ t.port.symOut = s.port.symOut ++ symbols ∧
      t.rs.pos = q.2.rs.pos ∧ t.rs.ratio = q.2.rs.ratio ∧
      t.reg = { q.2.reg with count := BitVec.ofNat 64 q.1.length } ∧ t.allSamples = s.allSamples

/-- Projection inverts synthesis on every carrier (42_demodulator.md R222). The spec's exact arithmetic is here the premise
that the four operations are exact and the carriers orthogonal over one block (41_modulator.md R207; log entry 2). -/
def Obligations.ProjInvertsSynth : Prop :=
  ∀ (s : State) (z : List Cx), s.num.Exact → s.orthogonal = true → z.length = s.nCar → s.projAll (s.synth z) = z

/-- The slicer answers the least index at the smallest distance; in exact arithmetic a constellation point slices to its own
index; every slice yields B bits (42_demodulator.md R229, R230). -/
def Obligations.SliceNearest : Prop :=
  ∀ s : State,
    (∀ v : Cx, s.slice v < 2 ^ s.nBit ∧
      (∀ i < 2 ^ s.nBit, s.pointDistance v (s.slice v) ≤ s.pointDistance v i) ∧
      (∀ i < s.slice v, s.pointDistance v (s.slice v) < s.pointDistance v i)) ∧
    (s.num.Exact → s.constellationCheck = true → ∀ i < 2 ^ s.nBit, s.slice (s.point i) = i) ∧
    (∀ v : List Cx, (s.slicedBits v).length = v.length * s.nBit)

/-- The tracking update (42_demodulator.md R232): τ is the pilot's angle to its nearest point times N / (2π·b_p); the position
moves by k_P·τ·r, the ratio by the factor 1 − k_I·τ/N, their mirrors follow; a zero pilot gives e = 0. In exact arithmetic
(R234) τ is within ±N/(2·b_p), one update moves the position by at most N·r/2 and the factor is in [1/2, 3/2]. -/
def Obligations.TrackUpdateAndBounds : Prop :=
  ∀ (s : State) (z : Cx),
    let e := s.pilotError z
    let tau := s.num.div (s.num.mul e (s.nSym : Scalar)) (s.bin s.pilot : Scalar)
    let pos := s.num.sub s.rs.pos (s.num.mul (s.num.mul (realOf s.cfg.kp) tau) s.rs.ratio)
    let r := s.num.mul s.rs.ratio (s.num.sub 1 (s.num.div (s.num.mul (realOf s.cfg.ki) tau) (s.nSym : Scalar)))
    let t := s.track z
    (z = Cx.zero ∨ s.point (s.slice z) = Cx.zero → e = 0) ∧
    (z ≠ Cx.zero → s.point (s.slice z) ≠ Cx.zero →
      e = s.num.argTurn (s.num.cxMul z (s.point (s.slice z)).conj)) ∧
    t = { s with
      rs := { s.rs with pos := pos, ratio := r }
      reg := { s.reg with rsPos := bits64 pos, rsRatio := bits64 r, clkPhase := bits64 tau,
                          clkFreq := bits64 (s.num.sub r 1) } } ∧
    (s.num.Exact → s.carrierCheck = true → s.demodCheck = true → 0 < s.rs.ratio →
      |tau| ≤ (s.nSym : Scalar) / (2 * (s.bin s.pilot : Scalar)) ∧
      |t.rs.pos - s.rs.pos| ≤ (s.nSym : Scalar) * s.rs.ratio / 2 ∧
      s.rs.ratio / 2 ≤ t.rs.ratio ∧ t.rs.ratio ≤ 3 * s.rs.ratio / 2 ∧ 0 < t.rs.ratio)

/-! ### Frames: the sender (43_frame_tx.md) -/

/-- SEND emits exactly the frame of the bytes before end of stream, counts its samples, empties BYTE_IN and clears its mark
(43_frame_tx.md R250, R251, R258; 10_state.md R64). -/
def Obligations.SendEmitsFrame : Prop :=
  ∀ s : State, s.busy = false → s.checks .send = true → s.port.byteInEos = true →
    let frame := s.frame s.port.byteIn
    s.port.smpOut.length + (frame.flatMap s.sampleUnits).length ≤ s.par.depth.smpOut →
    ∃ k, ∀ b, k ≤ b → exec .send { s with burst := b } = .next { s with
      burst := b
      port := { s.port with byteIn := [], byteInEos := false, smpOut := s.port.smpOut ++ frame.flatMap s.sampleUnits }
      reg := { s.reg with count := BitVec.ofNat 64 frame.length }
      tx := { tbuf := [], tbits := [] }
      st := { s.st with done := true, result := true, cause := .none } }

/-- The framed byte stream's length and the frame's sample count (43_frame_tx.md R255, R260). -/
def Obligations.FrameLength : Prop :=
  ∀ (s : State) (d : List Byte), 0 < s.blockBits →
    let f := d.length + (d.length + 254) / 255 + 1
    (framed d).length = f ∧
    (s.frame d).length = s.cfg.silStart.toNat + s.nTrain * s.nSym +
      (8 * f + s.blockBits - 1) / s.blockBits * s.nSym + s.cfg.silStop.toNat

/-! ### Frames: the receiver (44_frame_rx.md) -/

/-- The chunk parser inverts the framing: from the cleared codec, the bits of Framed(D) and any padding deliver exactly D and
set the sentinel flag (44_frame_rx.md R313, R314; 43_frame_tx.md R253, R254). -/
def Obligations.ParserInvertsFraming : Prop :=
  ∀ (d : List Byte) (pad : List Bool),
    RxCodec.feed .init ((framed d).flatMap bitsOfByte ++ pad) = ({ RxCodec.init with sentinel := true }, d)

/-- RECV accepted with its checks passed: what the acceptance writes, before any engine step of the turn, and that the skip of
CFG_SKIP samples comes first (44_frame_rx.md R281, R290). That the search variables and the gains are cleared is the model's
choice (log entry 20); that a pending `pcm_lo` is kept is its reading (log entry 12). -/
def Obligations.RecvAcceptance : Prop :=
  ∀ s : State, s.busy = false → s.checks .recv = true → s.burst = 0 →
    exec .recv s = .next { s with
      eng := .run .recv [] (.skip s.cfg.skip.toNat)
      st := { s.st with done := false, result := false, cause := .none, rx := .searching }
      reg := { s.reg with count := 0, rxConsumed := 0, rxBlocks := 0, detOffset := 0, detPeak := bits64 0 }
      rs := { s.rs with buf := [] }
      rx := { rbits := [], hdr := true, remaining := 0, sentinel := false, d := 0, d0 := 0, dbest := 0, cbest := 0,
              gains := [] } }

/-- RECV on an input that ends before the skip and one preamble are read ends NOCARRIER: BYTE_OUT receives nothing, every
unit was taken and counted, SMP_IN and its mark and `pcm_lo` are cleared (44_frame_rx.md R290, R300, R322, R323). A pending
`pcm_lo` pairs with the first byte taken (log entry 12); that the search variables and gains are cleared is log entry 20. -/
def Obligations.RecvNoCarrierOnShortInput : Prop :=
  ∀ s : State, s.busy = false → s.checks .recv = true → s.port.smpInEos = true →
    (s.dumpEn = true → s.port.dump.length + s.port.smpIn.length ≤ s.par.depth.dump) →
    let ys := sampleStream s.num s.pcmEn s.sigma s.pcmLo s.port.smpIn
    ys.length < s.cfg.skip.toNat + s.nPre →
    ∃ k, ∀ b, k ≤ b → exec .recv { s with burst := b } = .next { s with
      burst := b
      st := { s.st with done := true, result := false, cause := .noCarrier, rx := .noCarrier }
      port := { s.port with
        smpIn := [], smpInEos := false
        dump := if s.dumpEn then s.port.dump ++ s.port.smpIn else s.port.dump }
      pcmLo := none
      reg := { s.reg with
        count := 0, rxConsumed := BitVec.ofNat 64 s.port.smpIn.length, rxBlocks := 0, detOffset := 0, detPeak := bits64 0 }
      rs := { s.rs with buf := ys.drop s.cfg.skip.toNat }
      rx := .init }

/-- The search (44_frame_rx.md R300, R302, R303), from its first step over the samples y within reach: with d₀ the first
offset below W whose correlation reaches θ, the offset found is the first of the largest correlation among the offsets from
d₀ to one preamble length after it, below W and within y; with none, the receiver ends NOCARRIER, and SMP_IN, its mark and `pcm_lo` are cleared, also where W is
exhausted with units left (R322, R323). -/
def Obligations.SearchFindsPeak : Prop :=
  ∀ s : State, s.eng = .run .recv [] .search → s.checks .recv = true → s.rx.d = 0 → s.rs.buf = [] →
    s.port.smpInEos = true →
    (s.dumpEn = true → s.port.dump.length + s.port.smpIn.length ≤ s.par.depth.dump) →
    let y := s.allSamples
    (∀ d0, d0 < s.searchLimit → d0 + s.nPre ≤ y.length → s.theta ≤ s.corrOver y d0 →
      (∀ d < d0, s.corrOver y d < s.theta) →
      ∃ k ds, d0 ≤ ds ∧ ds < d0 + s.nPre ∧ ds < s.searchLimit ∧ ds + s.nPre ≤ y.length ∧
        (∀ d, d0 ≤ d → d < d0 + s.nPre → d < s.searchLimit → d + s.nPre ≤ y.length →
          s.corrOver y d ≤ s.corrOver y ds ∧ (d < ds → s.corrOver y d < s.corrOver y ds)) ∧
        (let t := State.runEngine k s
         t.eng = .run .recv [] .calibrate ∧ t.st = { s.st with rx := .calibrating } ∧ t.rx.dbest = ds ∧
         t.reg.detOffset = BitVec.ofNat 64 ds ∧ t.reg.detPeak = bits64 (s.corrOver y ds) ∧ t.allSamples = y)) ∧
    ((∀ d, d < s.searchLimit → d + s.nPre ≤ y.length → s.corrOver y d < s.theta) →
      ∃ k, let t := State.runEngine k s
        t.eng = .idle ∧ t.st = { s.st with done := true, result := false, cause := .noCarrier, rx := .noCarrier } ∧
        t.port.byteOut = s.port.byteOut ∧ t.port.smpIn = [] ∧ t.port.smpInEos = false ∧ t.pcmLo = none)

/-- In exact arithmetic the least-squares gain is the inverse of a common complex factor a = r_{t,k} / T_{t,k}
(44_frame_rx.md R306). -/
def Obligations.GainExact : Prop :=
  ∀ (s : State) (rs : List (List Cx)) (k : Nat) (a : Cx), s.num.Exact → a ≠ Cx.zero →
    (∀ t < s.nTrain, cxAt rs t k = s.num.cxMul a (s.trainSymbol t k)) →
    (∃ t < s.nTrain, s.trainSymbol t k ≠ Cx.zero) →
    s.num.cxMul (s.trainGain rs k) a = Cx.one

/-- The initial clock estimate (44_frame_rx.md R307) in exact arithmetic, angles in turns: the pilot's errors e_t of the
projected training blocks rs, their unwrapping ψ_t, the drift as the least-squares slope of τ_t = ψ_t·N/b_p, 0 for L = 1. Pilot
angles that step by δ, less than half a turn, give the drift δ·N/b_p. The drift is at most half a block, so r₀ = N/(N + drift) is
defined and positive, whatever was received. -/
def Obligations.DriftEstimateAndBounds : Prop :=
  ∀ (s : State) (rs : List (List Cx)), s.num.Exact → s.carrierCheck = true → s.demodCheck = true → s.trainingCheck = true →
    let n : Scalar := (s.nSym : Scalar)
    let b : Scalar := (s.bin s.pilot : Scalar)
    let ts := List.range s.nTrain
    let mid : Scalar := ((s.nTrain : Scalar) - 1) / 2
    let e := s.trainError rs
    let psi := s.unwrapped rs
    let tau : Nat → Scalar := fun t => psi t * n / b
    let mean := (ts.map tau).sum / (s.nTrain : Scalar)
    (∀ t, (cxAt rs t s.pilot = Cx.zero ∨ s.trainSymbol t s.pilot = Cx.zero → e t = 0) ∧
      (cxAt rs t s.pilot ≠ Cx.zero → s.trainSymbol t s.pilot ≠ Cx.zero →
        e t = s.num.argTurn (s.num.cxMul (cxAt rs t s.pilot) (s.trainSymbol t s.pilot).conj))) ∧
    psi 0 = e 0 ∧
    (∀ t, ∃ m : Int, psi (t + 1) - psi t = e (t + 1) - e t - (m : Scalar) ∧
      -1 / 2 < psi (t + 1) - psi t ∧ psi (t + 1) - psi t ≤ 1 / 2) ∧
    (s.nTrain = 1 → s.drift rs = 0) ∧
    (2 ≤ s.nTrain → s.drift rs * (ts.map fun t : Nat => ((t : Scalar) - mid) * ((t : Scalar) - mid)).sum =
      (ts.map fun t : Nat => ((t : Scalar) - mid) * (tau t - mean)).sum) ∧
    (∀ δ : Scalar, |δ| < 1 / 2 → (∀ t < s.nTrain, ∃ m : Int, e t = e 0 + (t : Scalar) * δ + (m : Scalar)) →
      (∀ t < s.nTrain, psi t = e 0 + (t : Scalar) * δ) ∧ (2 ≤ s.nTrain → s.drift rs = δ * n / b)) ∧
    |s.drift rs| ≤ n / 2 ∧ 0 < s.initialRatio rs ∧ s.initialRatio rs = n / (n + s.drift rs)

/-- CALIBRATING, one step (44_frame_rx.md R305, R306, R308, R324): the gains of carriers below K go to the CAL table, later
entries stay, the clock starts at data block 0, RXSTATE is RECEIVING; no unit moves and `rs.buf` is kept. -/
def Obligations.CalibrateSetsClock : Prop :=
  ∀ s : State, s.eng = .run .recv [] .calibrate → s.TablesCanonical →
    let rs := (List.range s.nTrain).map fun t =>
      s.projAll ((List.range s.nSym).map fun n => s.rs.at ((s.rx.dbest + t * s.nSym + n : Nat) : Int))
    let r0 := s.initialRatio rs
    let n : Scalar := (s.nSym : Scalar)
    let mid := s.num.div (s.num.sub (s.nTrain : Scalar) 1) 2
    let pos := s.num.add (s.num.add (s.rx.dbest : Scalar) (s.num.mul mid n))
      (s.num.mul (s.num.mul (s.num.sub (s.nTrain : Scalar) mid) n) r0)
    ∃ t, s.engineStep = some t ∧
      t = { s with
        eng := .run .recv [] (.receive [])
        st := { s.st with rx := .receiving }
        rs := { s.rs with pos := pos, ratio := r0 }
        reg := { s.reg with rsPos := bits64 pos, rsRatio := bits64 r0, clkFreq := bits64 (s.num.sub r0 1),
                            clkPhase := bits64 0 }
        rx := { s.rx with gains := (List.range s.nCar).map (s.trainGain rs) }
        cal := t.cal } ∧
      (∀ k < s.nCar, t.regValue (.calRe k) = bits64 (s.trainGain rs k).re ∧
        t.regValue (.calIm k) = bits64 (s.trainGain rs k).im) ∧
      (∀ k, s.nCar ≤ k → t.regValue (.calRe k) = s.regValue (.calRe k) ∧ t.regValue (.calIm k) = s.regValue (.calIm k)) ∧
      (s.num.Exact → r0 = 1 → pos = ((s.rx.dbest + s.nPre : Nat) : Scalar))

/-- One RECEIVING block (44_frame_rx.md R312 to R315): N resampled samples are projected and calibrated with the exact gains
(log entry 8), the sliced bits go through the parser, its bytes to BYTE_OUT, the block is counted, the clock tracked, and
the sentinel leads to CONFIRMING; a short block ends TRUNCATED with BYTE_OUT as it was. -/
def Obligations.ReceiveBlock : Prop :=
  ∀ s : State, s.eng = .run .recv [] (.receive []) → s.st.rx = .receiving → s.checks .recv = true →
    s.rx.sentinel = false →
    (s.dumpEn = true → s.port.dump.length + s.port.smpIn.length ≤ s.par.depth.dump) →
    let w := s.rsAhead s.nSym
    let v := s.calibrated s.rx.gains w
    let q := s.rx.feed (s.slicedBits v)
    let clock := (s.rsMoved s.nSym).track (s.pilotOf v)
    (w.length = s.nSym → s.port.byteOut.length + q.2.length ≤ s.par.depth.byteOut →
      ∃ k, let t := State.runEngine k s
        t.eng = .run .recv [] (if q.1.sentinel then .confirm s.cfg.confirm.toNat else .receive []) ∧
        t.st = { s.st with rx := if q.1.sentinel then .confirming else .receiving } ∧
        t.rx = q.1 ∧ t.port.byteOut = s.port.byteOut ++ q.2 ∧
        t.reg = { clock.reg with
          count := s.reg.count + BitVec.ofNat 64 q.2.length, rxBlocks := s.reg.rxBlocks + 1
          rxConsumed := t.reg.rxConsumed } ∧
        t.rs.pos = clock.rs.pos ∧ t.rs.ratio = clock.rs.ratio ∧ t.cal = s.cal ∧ t.allSamples = s.allSamples) ∧
    (w.length < s.nSym → s.port.smpInEos = true →
      ∃ k, let t := State.runEngine k s
        t.eng = .idle ∧ t.st = { s.st with done := true, result := false, cause := .truncated, rx := .truncated } ∧
        t.port.byteOut = s.port.byteOut ∧ t.port.smpIn = [] ∧ t.port.smpInEos = false ∧ t.pcmLo = none)

/-- CONFIRMING (44_frame_rx.md R318, R320, R321, R323): C more resampled samples end DONE, fewer end TRUNCATED; SMP_IN, its
mark and `pcm_lo` are cleared, BYTE_OUT stays. -/
def Obligations.ConfirmingEnds : Prop :=
  ∀ (s : State) (c : Nat), s.eng = .run .recv [] (.confirm c) →
    (s.dumpEn = true → s.port.dump.length + s.port.smpIn.length ≤ s.par.depth.dump) →
    let m := (s.rsAhead c).length
    (s.port.smpInEos = true ∨ m = c) →
    ∃ k, let t := State.runEngine k s
      t.eng = .idle ∧
      t.st = (if m = c then { s.st with done := true, result := true, cause := .none, rx := .done }
        else { s.st with done := true, result := false, cause := .truncated, rx := .truncated }) ∧
      t.port.byteOut = s.port.byteOut ∧ t.port.smpIn = [] ∧ t.port.smpInEos = false ∧ t.pcmLo = none

/-- Round trip (44_frame_rx.md R330): RECV on Frame(D) and end of stream, with the same configuration, ends DONE with D in
BYTE_OUT. The rule's exact arithmetic is stated as what it needs of the instance's arithmetic (log entry 2): exact operations,
orthogonal carriers, arg of a positive real 0, the preamble correlating with itself to 1 and nothing to more. The samples are
those RECV reads: a pending `pcm_lo` pairs with the first byte of SMP_IN (log entry 12). -/
def Obligations.RecvRoundTrip : Prop :=
  ∀ (s : State) (d : List Byte), s.busy = false → s.checks .recv = true → s.port.smpInEos = true →
    sampleStream s.num s.pcmEn s.sigma s.pcmLo s.port.smpIn = s.frame d →
    s.cfg.skip.toNat ≤ s.cfg.silStart.toNat →
    let start := s.cfg.silStart.toNat - s.cfg.skip.toNat
    let y := (s.frame d).drop s.cfg.skip.toNat
    start < s.searchLimit →
    s.port.byteOut.length + d.length ≤ s.par.depth.byteOut →
    (s.dumpEn = true → s.port.dump.length + s.port.smpIn.length ≤ s.par.depth.dump) →
    s.num.Exact → s.orthogonal = true → (∀ x : Scalar, 0 < x → s.num.argTurn ⟨x, 0⟩ = 0) →
    let ep := s.num.energy s.preamble
    ep ≠ 0 → s.num.sqrt (s.num.mul ep ep) = ep →
    (∀ o, o < y.length → o + s.nPre ≤ y.length → s.corrOver y o ≤ 1) → (∀ o, o < start → s.corrOver y o < 1) →
    ∃ k, ∀ b, k ≤ b → ∃ t, exec .recv { s with burst := b } = .next t ∧
      t.busy = false ∧ t.st = { s.st with done := true, result := true, cause := .none, rx := .done } ∧
      t.port.byteOut = s.port.byteOut ++ d ∧ t.port.smpIn = [] ∧ t.port.smpInEos = false ∧
      t.reg.count = BitVec.ofNat 64 d.length ∧ t.reg.rxBlocks = BitVec.ofNat 64 (s.dataBlocks d).length ∧
      t.reg.detOffset = BitVec.ofNat 64 start ∧ t.reg.detPeak = bits64 1 ∧ t.rs.ratio = 1

/-- Truncation detection (44_frame_rx.md R332): with the last c samples of Frame(D) removed, no more than the trail and the
data blocks, RECV ends DONE exactly when c ≤ S1 − C, else TRUNCATED; the bytes decoded before the cut are in BYTE_OUT: what
the parser delivers of the data blocks that are left whole, all of D while only trailing silence is missing. The premises are
those of `RecvRoundTrip` (log entries 2 and 12). -/
def Obligations.RecvDetectsTruncation : Prop :=
  ∀ (s : State) (d : List Byte) (c : Nat), s.busy = false → s.checks .recv = true →
    s.port.smpInEos = true → c ≤ s.cfg.silStop.toNat + (s.dataBlocks d).length * s.nSym →
    sampleStream s.num s.pcmEn s.sigma s.pcmLo s.port.smpIn = (s.frame d).take ((s.frame d).length - c) →
    s.cfg.skip.toNat ≤ s.cfg.silStart.toNat →
    let start := s.cfg.silStart.toNat - s.cfg.skip.toNat
    let y := ((s.frame d).take ((s.frame d).length - c)).drop s.cfg.skip.toNat
    start < s.searchLimit →
    s.port.byteOut.length + d.length ≤ s.par.depth.byteOut →
    (s.dumpEn = true → s.port.dump.length + s.port.smpIn.length ≤ s.par.depth.dump) →
    s.num.Exact → s.orthogonal = true → (∀ x : Scalar, 0 < x → s.num.argTurn ⟨x, 0⟩ = 0) →
    let ep := s.num.energy s.preamble
    ep ≠ 0 → s.num.sqrt (s.num.mul ep ep) = ep →
    (∀ o, o < y.length → o + s.nPre ≤ y.length → s.corrOver y o ≤ 1) → (∀ o, o < start → s.corrOver y o < 1) →
    ∃ k, ∀ b, k ≤ b → ∃ t, exec .recv { s with burst := b } = .next t ∧ t.busy = false ∧
      t.st = (if c + s.cfg.confirm.toNat ≤ s.cfg.silStop.toNat
        then { s.st with done := true, result := true, cause := .none, rx := .done }
        else { s.st with done := true, result := false, cause := .truncated, rx := .truncated }) ∧
      (let blocks := bitBlocks s.blockBits ((framed d).flatMap bitsOfByte)
       let whole := min blocks.length ((blocks.length * s.nSym + s.cfg.silStop.toNat - c) / s.nSym)
       let got := (RxCodec.feed .init (blocks.take whole).flatten).2
       t.port.byteOut = s.port.byteOut ++ got ∧ got <+: d ∧ (c ≤ s.cfg.silStop.toNat → got = d) ∧
       t.reg.rxBlocks = BitVec.ofNat 64 whole)

/-- Between two holds a command takes finitely many steps (70_reset_and_hazards.md R415; 44_frame_rx.md R334; 00_scope.md R8),
whatever the samples, the clock and the arithmetic: from every state its engine steps come to its end, RECV's with a terminal
RXSTATE, or to a hold on one of its own ports. The premises are invariants of every step (`StepKeepsEngine`). -/
def Obligations.EngineEndsOrHolds : Prop :=
  ∀ (s : State) (c : Instr) (todo : List Act) (ph : Phase), s.eng = .run c todo ph → s.EngineConsistent →
    s.CodecConsistent → s.ChecksHold →
    ∃ k, let t := State.runEngine k s
      t.engineStep = none ∧ (t.EndedAfter c ∨ (t.busy = true ∧ t.st.done = s.st.done ∧ t.Holding c))

/-- A command whose input is finite and ends with EOS, and whose outputs are drained, ends (70_reset_and_hazards.md R415;
44_frame_rx.md R334): there is a number m of units such that with room for them in its output ports the command runs to its
end. RECV's is R334's own argument, in the exact arithmetic it is made in: its read position advances by at least N·r/2 a block,
so it ends where the ratio is not tracked (k_I = 0), or in this run stays above some ρ > 0. Where the tracked ratio shrinks to 0
the rules do not force an end (log entry 16). -/
def Obligations.CommandEndsOnFiniteInput : Prop :=
  ∀ (s : State) (c : Instr) (todo : List Act) (ph : Phase), s.eng = .run c todo ph → s.EngineConsistent → s.InputMarked c →
    (c = .recv → s.RatioPositive ∧
      (f64 s.cfg.ki = some 0 ∨ ∃ ρ : Scalar, 0 < ρ ∧ ∀ (d : Depths) (k : Nat),
        ρ ≤ (State.runEngine k { s with par := { s.par with depth := d } }).rs.ratio)) →
    ∃ m, ∀ d : Depths, s.RoomFor d m →
      ∃ k, State.EndedAfter (State.runEngine k { s with par := { s.par with depth := d } }) c

/-- The dump (44_frame_rx.md R325, R326, R333): over any number of engine steps the units taken from SMP_IN are a front part
of it; while a RECV executes each is counted in RX_CONSUMED and, with DUMP_EN = 1, pushed unchanged to DUMP in order; no
other command touches either. -/
def Obligations.DumpIsInputPrefix : Prop :=
  ∀ (s : State) (k : Nat), s.EngineConsistent →
    let t := State.runEngine k s
    (∀ todo ph, s.eng = .run .recv todo ph →
      ∃ us rest, s.port.smpIn = us ++ rest ∧ t.reg.rxConsumed = s.reg.rxConsumed + BitVec.ofNat 64 us.length ∧
        t.port.dump = (if s.dumpEn then s.port.dump ++ us else s.port.dump) ∧ (t.port.smpIn = rest ∨ t.port.smpIn = [])) ∧
    ((∀ todo ph, s.eng ≠ .run .recv todo ph) →
      t.reg.rxConsumed = s.reg.rxConsumed ∧ t.port.dump = s.port.dump ∧ ∃ us, s.port.smpIn = us ++ t.port.smpIn)

/-! ### The whole machine -/

/-- RS_POS, RS_RATIO and CLK_FREQ always show the resampler's position and ratio, in exact arithmetic CLK_FREQ the ratio
minus 1 (10_state.md R49, R51). -/
def Obligations.StepKeepsMirrors : Prop :=
  ∀ s t : State, s.Mirrors → step s = .next t →
    t.Mirrors ∧ (s.num.Exact → t.reg.clkFreq = bits64 (t.rs.ratio - 1))

/-- The register tables stay in canonical form and no port ever holds more units than its capacity (10_state.md R60;
20_memory.md R106, R108). The canonical form is the model's own (log entry 4). -/
def Obligations.StepKeepsTablesAndPorts : Prop :=
  ∀ s t : State, s.TablesCanonical → s.PortsBounded → step s = .next t → t.TablesCanonical ∧ t.PortsBounded

/-- BUSY, DONE, RESULT and CAUSE always agree, and RESULT = 1 exactly when an ended command's cause is NONE. Once a command
was accepted no read sees BUSY = 0 with DONE = 0 before a reset: a step that writes a word to CTRL leaves the engine running
or DONE = 1, and every step but a reset keeps that (10_state.md R43; 60_exceptions.md R370, R374). -/
def Obligations.StepKeepsStatus : Prop :=
  ∀ s t : State, s.StatusConsistent → step s = .next t →
    t.StatusConsistent ∧
    ((∀ x rest, s.sched = x :: rest → x.txn ≠ .reset) → (s.busy = true ∨ s.st.done = true) →
      t.busy = true ∨ t.st.done = true) ∧
    ((∃ x rest v, s.sched = x :: rest ∧ x.txn = .write ctrlIndex v) → t.busy = true ∨ t.st.done = true)

/-- The engine always stands in the rule of the command it executes and RXSTATE shows where RECV stands; idle, it shows IDLE
or a terminal state. The receive codec never holds a whole byte and has its gains while it demodulates, and the checks of the
executing command go on holding (10_state.md R54, R55, R85; 44_frame_rx.md R306, R313, R324; 45_control.md R345). -/
def Obligations.StepKeepsEngine : Prop :=
  ∀ s t : State, s.EngineConsistent → step s = .next t →
    t.EngineConsistent ∧ (s.CodecConsistent → t.CodecConsistent) ∧ (s.ChecksHold → t.ChecksHold)

/-- In exact arithmetic the checks of the executing command go on holding and the resampler's ratio stays positive, through
every tracking update and calibration (42_demodulator.md R234; 44_frame_rx.md R307; 45_control.md R345). -/
def Obligations.StepKeepsRatioPositive : Prop :=
  ∀ s t : State, s.RatioPositive → step s = .next t → t.RatioPositive

/-- The reset state meets every invariant above. -/
def Obligations.ResetMeetsInvariants : Prop :=
  State.reset.Mirrors ∧ State.reset.TablesCanonical ∧ State.reset.PortsBounded ∧ State.reset.StatusConsistent ∧
  State.reset.EngineConsistent ∧ State.reset.CodecConsistent ∧ State.reset.RatioPositive

/-- While the engine runs, no step but a reset changes a configuration register, and none changes the CAL table but RECV's
own CALIBRATING (10_state.md R57; 20_memory.md R121; 70_reset_and_hazards.md R406). -/
def Obligations.ConfigFrozenWhileBusy : Prop :=
  ∀ s t : State, s.busy = true → (∀ x rest, s.sched = x :: rest → x.txn ≠ .reset) → step s = .next t →
    t.cfg = s.cfg ∧
    (s.EngineConsistent → (∀ todo ph, s.eng ≠ .run .recv todo ph) → t.cal = s.cal)

/-- Arrival times do not matter (44_frame_rx.md R331; 43_frame_tx.md R259; 00_scope.md R8): an engine step that can be taken
is the same before and after a host push or an end-of-stream mark, but for the step that empties that port. -/
def Obligations.ArrivalCommutes : Prop :=
  ∀ s t : State, s.engineStep = some t →
    ((∀ c rest ph, s.eng ≠ .run c (.clearByteIn :: rest) ph) →
      (∀ b, s.port.byteIn.length < s.par.depth.byteIn → s.port.byteInEos = false →
        (s.transact (.pushByte b)).engineStep = some (t.transact (.pushByte b))) ∧
      (s.transact (.eos .byteIn)).engineStep = some (t.transact (.eos .byteIn))) ∧
    ((∀ c rest ph, s.eng ≠ .run c (.clearSmpIn :: rest) ph) →
      (∀ u, s.port.smpIn.length < s.par.depth.smpIn → s.port.smpInEos = false →
        (s.transact (.pushSmp u)).engineStep = some (t.transact (.pushSmp u))) ∧
      (s.transact (.eos .smpIn)).engineStep = some (t.transact (.eos .smpIn))) ∧
    (∀ u, s.port.symIn.length < s.par.depth.symIn → s.port.symInEos = false →
      (s.transact (.pushSym u)).engineStep = some (t.transact (.pushSym u))) ∧
    (s.transact (.eos .symIn)).engineStep = some (t.transact (.eos .symIn))

/-! ### Frames of the streaming commands: what they leave unchanged -/

/-- MOD and SEND, however far a turn takes them: nothing changes but the engine mode, DONE, RESULT, CAUSE, COUNT, the port
each takes from, SMP_OUT, which only grows at its end, and SEND's transmit codec (41_modulator.md R200; 43_frame_tx.md
R250, R258). -/
def Obligations.FrameOfModAndSend : Prop :=
  ∀ s t : State, s.busy = false →
    (∀ n, exec (.mod n) s = .next t →
      t = { s with
        eng := t.eng
        st := { s.st with done := t.st.done, result := t.st.result, cause := t.st.cause }
        reg := { s.reg with count := t.reg.count }
        port := { s.port with symIn := t.port.symIn, smpOut := t.port.smpOut } } ∧
      s.port.smpOut <+: t.port.smpOut ∧ t.port.symIn <:+ s.port.symIn) ∧
    (exec .send s = .next t →
      t = { s with
        eng := t.eng
        st := { s.st with done := t.st.done, result := t.st.result, cause := t.st.cause }
        reg := { s.reg with count := t.reg.count }
        port := { s.port with byteIn := t.port.byteIn, byteInEos := t.port.byteInEos, smpOut := t.port.smpOut }
        tx := t.tx } ∧
      s.port.smpOut <+: t.port.smpOut ∧ t.port.byteIn <:+ s.port.byteIn)

/-- RS_ADV and DEMOD, however far a turn takes them: nothing changes but the engine mode, DONE, RESULT, CAUSE, COUNT, what
was taken from SMP_IN, `pcm_lo`, the resampler and its mirrors (RS_ADV: not the ratio, nor CLK_FREQ and CLK_PHASE), and the
output port, which only grows (40_resampler.md R172; 42_demodulator.md R220). -/
def Obligations.FrameOfAdvAndDemod : Prop :=
  ∀ (s t : State) (n : Nat), s.busy = false →
    (exec (.rsAdv n) s = .next t →
      t = { s with
        eng := t.eng
        st := { s.st with done := t.st.done, result := t.st.result, cause := t.st.cause }
        reg := { s.reg with count := t.reg.count, rsPos := t.reg.rsPos }
        port := { s.port with smpIn := t.port.smpIn, smpOut := t.port.smpOut }
        pcmLo := t.pcmLo
        rs := { s.rs with buf := t.rs.buf, pos := t.rs.pos } } ∧
      s.port.smpOut <+: t.port.smpOut ∧ t.port.smpIn <:+ s.port.smpIn ∧ s.rs.buf <+: t.rs.buf) ∧
    (exec (.demod n) s = .next t →
      t = { s with
        eng := t.eng
        st := { s.st with done := t.st.done, result := t.st.result, cause := t.st.cause }
        reg := { s.reg with count := t.reg.count, rsPos := t.reg.rsPos, rsRatio := t.reg.rsRatio,
                            clkFreq := t.reg.clkFreq, clkPhase := t.reg.clkPhase }
        port := { s.port with smpIn := t.port.smpIn, symOut := t.port.symOut }
        pcmLo := t.pcmLo
        rs := t.rs } ∧
      s.port.symOut <+: t.port.symOut ∧ t.port.smpIn <:+ s.port.smpIn ∧ s.rs.buf <+: t.rs.buf)

/-- RECV, however far a turn takes it: the configuration, the other commands' ports, REJ and WIGN, SEND's codec and the CAL
entries from K on do not change; BYTE_OUT and DUMP only grow (44_frame_rx.md R280, R306, R315, R325). -/
def Obligations.FrameOfRecv : Prop :=
  ∀ s t : State, s.busy = false → exec .recv s = .next t →
    t = { s with
      eng := t.eng
      st := { s.st with done := t.st.done, result := t.st.result, cause := t.st.cause, rx := t.st.rx }
      reg := t.reg
      cal := t.cal
      port := { s.port with
        smpIn := t.port.smpIn, smpInEos := t.port.smpInEos, byteOut := t.port.byteOut, dump := t.port.dump }
      pcmLo := t.pcmLo
      rs := t.rs
      rx := t.rx } ∧
    s.port.byteOut <+: t.port.byteOut ∧ s.port.dump <+: t.port.dump ∧ t.port.smpIn <:+ s.port.smpIn ∧
    (s.TablesCanonical → ∀ k, s.nCar ≤ k →
      t.regValue (.calRe k) = s.regValue (.calRe k) ∧ t.regValue (.calIm k) = s.regValue (.calIm k))
end

