-- ==== Sys2Proof/Laws/State.lean ====
section
/-! SUPPORT. What each update of State leaves in each field: one lemma per field per update, so that no proof unfolds a
record update. -/

namespace Sys2Proof.Machine

variable (s : State)

/-! `State.accept` -/

@[simp] theorem accept_par (c : Instr) : (s.accept c).par = s.par := rfl
@[simp] theorem accept_num (c : Instr) : (s.accept c).num = s.num := rfl
@[simp] theorem accept_sched (c : Instr) : (s.accept c).sched = s.sched := rfl
@[simp] theorem accept_burst (c : Instr) : (s.accept c).burst = s.burst := rfl
@[simp] theorem accept_reply (c : Instr) : (s.accept c).reply = s.reply := rfl
@[simp] theorem accept_eng (c : Instr) : (s.accept c).eng = .run c [] .closing := rfl
@[simp] theorem accept_st (c : Instr) : (s.accept c).st = { s.st with done := false, result := false, cause := .none } := rfl
@[simp] theorem accept_reg (c : Instr) : (s.accept c).reg = { s.reg with count := 0 } := rfl
@[simp] theorem accept_cfg (c : Instr) : (s.accept c).cfg = s.cfg := rfl
@[simp] theorem accept_cal (c : Instr) : (s.accept c).cal = s.cal := rfl
@[simp] theorem accept_port (c : Instr) : (s.accept c).port = s.port := rfl
@[simp] theorem accept_rs (c : Instr) : (s.accept c).rs = s.rs := rfl
@[simp] theorem accept_pcmLo (c : Instr) : (s.accept c).pcmLo = s.pcmLo := rfl
@[simp] theorem accept_rx (c : Instr) : (s.accept c).rx = s.rx := rfl
@[simp] theorem accept_tx (c : Instr) : (s.accept c).tx = s.tx := rfl

/-! `State.endWith` -/

@[simp] theorem endWith_par (c : Cause) : (s.endWith c).par = s.par := rfl
@[simp] theorem endWith_num (c : Cause) : (s.endWith c).num = s.num := rfl
@[simp] theorem endWith_sched (c : Cause) : (s.endWith c).sched = s.sched := rfl
@[simp] theorem endWith_burst (c : Cause) : (s.endWith c).burst = s.burst := rfl
@[simp] theorem endWith_reply (c : Cause) : (s.endWith c).reply = s.reply := rfl
@[simp] theorem endWith_eng (c : Cause) : (s.endWith c).eng = .idle := rfl
@[simp] theorem endWith_st (c : Cause) : (s.endWith c).st = { s.st with done := true, result := decide (c = .none), cause := c } := rfl
@[simp] theorem endWith_reg (c : Cause) : (s.endWith c).reg = s.reg := rfl
@[simp] theorem endWith_cfg (c : Cause) : (s.endWith c).cfg = s.cfg := rfl
@[simp] theorem endWith_cal (c : Cause) : (s.endWith c).cal = s.cal := rfl
@[simp] theorem endWith_port (c : Cause) : (s.endWith c).port = s.port := rfl
@[simp] theorem endWith_rs (c : Cause) : (s.endWith c).rs = s.rs := rfl
@[simp] theorem endWith_pcmLo (c : Cause) : (s.endWith c).pcmLo = s.pcmLo := rfl
@[simp] theorem endWith_rx (c : Cause) : (s.endWith c).rx = s.rx := rfl
@[simp] theorem endWith_tx (c : Cause) : (s.endWith c).tx = s.tx := rfl

/-! `State.reject` -/

@[simp] theorem reject_par : (s.reject).par = s.par := rfl
@[simp] theorem reject_num : (s.reject).num = s.num := rfl
@[simp] theorem reject_sched : (s.reject).sched = s.sched := rfl
@[simp] theorem reject_burst : (s.reject).burst = s.burst := rfl
@[simp] theorem reject_reply : (s.reject).reply = s.reply := rfl
@[simp] theorem reject_eng : (s.reject).eng = s.eng := rfl
@[simp] theorem reject_st : (s.reject).st = { s.st with rej := true } := rfl
@[simp] theorem reject_reg : (s.reject).reg = s.reg := rfl
@[simp] theorem reject_cfg : (s.reject).cfg = s.cfg := rfl
@[simp] theorem reject_cal : (s.reject).cal = s.cal := rfl
@[simp] theorem reject_port : (s.reject).port = s.port := rfl
@[simp] theorem reject_rs : (s.reject).rs = s.rs := rfl
@[simp] theorem reject_pcmLo : (s.reject).pcmLo = s.pcmLo := rfl
@[simp] theorem reject_rx : (s.reject).rx = s.rx := rfl
@[simp] theorem reject_tx : (s.reject).tx = s.tx := rfl

/-! `State.ignored` -/

@[simp] theorem ignored_par : (s.ignored).par = s.par := rfl
@[simp] theorem ignored_num : (s.ignored).num = s.num := rfl
@[simp] theorem ignored_sched : (s.ignored).sched = s.sched := rfl
@[simp] theorem ignored_burst : (s.ignored).burst = s.burst := rfl
@[simp] theorem ignored_reply : (s.ignored).reply = s.reply := rfl
@[simp] theorem ignored_eng : (s.ignored).eng = s.eng := rfl
@[simp] theorem ignored_st : (s.ignored).st = { s.st with wign := true } := rfl
@[simp] theorem ignored_reg : (s.ignored).reg = s.reg := rfl
@[simp] theorem ignored_cfg : (s.ignored).cfg = s.cfg := rfl
@[simp] theorem ignored_cal : (s.ignored).cal = s.cal := rfl
@[simp] theorem ignored_port : (s.ignored).port = s.port := rfl
@[simp] theorem ignored_rs : (s.ignored).rs = s.rs := rfl
@[simp] theorem ignored_pcmLo : (s.ignored).pcmLo = s.pcmLo := rfl
@[simp] theorem ignored_rx : (s.ignored).rx = s.rx := rfl
@[simp] theorem ignored_tx : (s.ignored).tx = s.tx := rfl

/-! `State.countUp` -/

@[simp] theorem countUp_par : (s.countUp).par = s.par := rfl
@[simp] theorem countUp_num : (s.countUp).num = s.num := rfl
@[simp] theorem countUp_sched : (s.countUp).sched = s.sched := rfl
@[simp] theorem countUp_burst : (s.countUp).burst = s.burst := rfl
@[simp] theorem countUp_reply : (s.countUp).reply = s.reply := rfl
@[simp] theorem countUp_eng : (s.countUp).eng = s.eng := rfl
@[simp] theorem countUp_st : (s.countUp).st = s.st := rfl
@[simp] theorem countUp_reg : (s.countUp).reg = { s.reg with count := s.reg.count + 1 } := rfl
@[simp] theorem countUp_cfg : (s.countUp).cfg = s.cfg := rfl
@[simp] theorem countUp_cal : (s.countUp).cal = s.cal := rfl
@[simp] theorem countUp_port : (s.countUp).port = s.port := rfl
@[simp] theorem countUp_rs : (s.countUp).rs = s.rs := rfl
@[simp] theorem countUp_pcmLo : (s.countUp).pcmLo = s.pcmLo := rfl
@[simp] theorem countUp_rx : (s.countUp).rx = s.rx := rfl
@[simp] theorem countUp_tx : (s.countUp).tx = s.tx := rfl

/-! `State.blockUp` -/

@[simp] theorem blockUp_par : (s.blockUp).par = s.par := rfl
@[simp] theorem blockUp_num : (s.blockUp).num = s.num := rfl
@[simp] theorem blockUp_sched : (s.blockUp).sched = s.sched := rfl
@[simp] theorem blockUp_burst : (s.blockUp).burst = s.burst := rfl
@[simp] theorem blockUp_reply : (s.blockUp).reply = s.reply := rfl
@[simp] theorem blockUp_eng : (s.blockUp).eng = s.eng := rfl
@[simp] theorem blockUp_st : (s.blockUp).st = s.st := rfl
@[simp] theorem blockUp_reg : (s.blockUp).reg = { s.reg with rxBlocks := s.reg.rxBlocks + 1 } := rfl
@[simp] theorem blockUp_cfg : (s.blockUp).cfg = s.cfg := rfl
@[simp] theorem blockUp_cal : (s.blockUp).cal = s.cal := rfl
@[simp] theorem blockUp_port : (s.blockUp).port = s.port := rfl
@[simp] theorem blockUp_rs : (s.blockUp).rs = s.rs := rfl
@[simp] theorem blockUp_pcmLo : (s.blockUp).pcmLo = s.pcmLo := rfl
@[simp] theorem blockUp_rx : (s.blockUp).rx = s.rx := rfl
@[simp] theorem blockUp_tx : (s.blockUp).tx = s.tx := rfl

/-! `State.setRx` -/

@[simp] theorem setRx_par (r : RxState) : (s.setRx r).par = s.par := rfl
@[simp] theorem setRx_num (r : RxState) : (s.setRx r).num = s.num := rfl
@[simp] theorem setRx_sched (r : RxState) : (s.setRx r).sched = s.sched := rfl
@[simp] theorem setRx_burst (r : RxState) : (s.setRx r).burst = s.burst := rfl
@[simp] theorem setRx_reply (r : RxState) : (s.setRx r).reply = s.reply := rfl
@[simp] theorem setRx_eng (r : RxState) : (s.setRx r).eng = s.eng := rfl
@[simp] theorem setRx_st (r : RxState) : (s.setRx r).st = { s.st with rx := r } := rfl
@[simp] theorem setRx_reg (r : RxState) : (s.setRx r).reg = s.reg := rfl
@[simp] theorem setRx_cfg (r : RxState) : (s.setRx r).cfg = s.cfg := rfl
@[simp] theorem setRx_cal (r : RxState) : (s.setRx r).cal = s.cal := rfl
@[simp] theorem setRx_port (r : RxState) : (s.setRx r).port = s.port := rfl
@[simp] theorem setRx_rs (r : RxState) : (s.setRx r).rs = s.rs := rfl
@[simp] theorem setRx_pcmLo (r : RxState) : (s.setRx r).pcmLo = s.pcmLo := rfl
@[simp] theorem setRx_rx (r : RxState) : (s.setRx r).rx = s.rx := rfl
@[simp] theorem setRx_tx (r : RxState) : (s.setRx r).tx = s.tx := rfl

/-! `State.setPos` -/

@[simp] theorem setPos_par (q : Scalar) : (s.setPos q).par = s.par := rfl
@[simp] theorem setPos_num (q : Scalar) : (s.setPos q).num = s.num := rfl
@[simp] theorem setPos_sched (q : Scalar) : (s.setPos q).sched = s.sched := rfl
@[simp] theorem setPos_burst (q : Scalar) : (s.setPos q).burst = s.burst := rfl
@[simp] theorem setPos_reply (q : Scalar) : (s.setPos q).reply = s.reply := rfl
@[simp] theorem setPos_eng (q : Scalar) : (s.setPos q).eng = s.eng := rfl
@[simp] theorem setPos_st (q : Scalar) : (s.setPos q).st = s.st := rfl
@[simp] theorem setPos_reg (q : Scalar) : (s.setPos q).reg = { s.reg with rsPos := bits64 q } := rfl
@[simp] theorem setPos_cfg (q : Scalar) : (s.setPos q).cfg = s.cfg := rfl
@[simp] theorem setPos_cal (q : Scalar) : (s.setPos q).cal = s.cal := rfl
@[simp] theorem setPos_port (q : Scalar) : (s.setPos q).port = s.port := rfl
@[simp] theorem setPos_rs (q : Scalar) : (s.setPos q).rs = { s.rs with pos := q } := rfl
@[simp] theorem setPos_pcmLo (q : Scalar) : (s.setPos q).pcmLo = s.pcmLo := rfl
@[simp] theorem setPos_rx (q : Scalar) : (s.setPos q).rx = s.rx := rfl
@[simp] theorem setPos_tx (q : Scalar) : (s.setPos q).tx = s.tx := rfl

/-! `State.setRatio` -/

@[simp] theorem setRatio_par (q : Scalar) : (s.setRatio q).par = s.par := rfl
@[simp] theorem setRatio_num (q : Scalar) : (s.setRatio q).num = s.num := rfl
@[simp] theorem setRatio_sched (q : Scalar) : (s.setRatio q).sched = s.sched := rfl
@[simp] theorem setRatio_burst (q : Scalar) : (s.setRatio q).burst = s.burst := rfl
@[simp] theorem setRatio_reply (q : Scalar) : (s.setRatio q).reply = s.reply := rfl
@[simp] theorem setRatio_eng (q : Scalar) : (s.setRatio q).eng = s.eng := rfl
@[simp] theorem setRatio_st (q : Scalar) : (s.setRatio q).st = s.st := rfl
@[simp] theorem setRatio_reg (q : Scalar) : (s.setRatio q).reg = { s.reg with rsRatio := bits64 q, clkFreq := bits64 (s.num.sub q 1) } := rfl
@[simp] theorem setRatio_cfg (q : Scalar) : (s.setRatio q).cfg = s.cfg := rfl
@[simp] theorem setRatio_cal (q : Scalar) : (s.setRatio q).cal = s.cal := rfl
@[simp] theorem setRatio_port (q : Scalar) : (s.setRatio q).port = s.port := rfl
@[simp] theorem setRatio_rs (q : Scalar) : (s.setRatio q).rs = { s.rs with ratio := q } := rfl
@[simp] theorem setRatio_pcmLo (q : Scalar) : (s.setRatio q).pcmLo = s.pcmLo := rfl
@[simp] theorem setRatio_rx (q : Scalar) : (s.setRatio q).rx = s.rx := rfl
@[simp] theorem setRatio_tx (q : Scalar) : (s.setRatio q).tx = s.tx := rfl

/-! `State.setPhase` -/

@[simp] theorem setPhase_par (q : Scalar) : (s.setPhase q).par = s.par := rfl
@[simp] theorem setPhase_num (q : Scalar) : (s.setPhase q).num = s.num := rfl
@[simp] theorem setPhase_sched (q : Scalar) : (s.setPhase q).sched = s.sched := rfl
@[simp] theorem setPhase_burst (q : Scalar) : (s.setPhase q).burst = s.burst := rfl
@[simp] theorem setPhase_reply (q : Scalar) : (s.setPhase q).reply = s.reply := rfl
@[simp] theorem setPhase_eng (q : Scalar) : (s.setPhase q).eng = s.eng := rfl
@[simp] theorem setPhase_st (q : Scalar) : (s.setPhase q).st = s.st := rfl
@[simp] theorem setPhase_reg (q : Scalar) : (s.setPhase q).reg = { s.reg with clkPhase := bits64 q } := rfl
@[simp] theorem setPhase_cfg (q : Scalar) : (s.setPhase q).cfg = s.cfg := rfl
@[simp] theorem setPhase_cal (q : Scalar) : (s.setPhase q).cal = s.cal := rfl
@[simp] theorem setPhase_port (q : Scalar) : (s.setPhase q).port = s.port := rfl
@[simp] theorem setPhase_rs (q : Scalar) : (s.setPhase q).rs = s.rs := rfl
@[simp] theorem setPhase_pcmLo (q : Scalar) : (s.setPhase q).pcmLo = s.pcmLo := rfl
@[simp] theorem setPhase_rx (q : Scalar) : (s.setPhase q).rx = s.rx := rfl
@[simp] theorem setPhase_tx (q : Scalar) : (s.setPhase q).tx = s.tx := rfl

/-! `State.clearBuf` -/

@[simp] theorem clearBuf_par : (s.clearBuf).par = s.par := rfl
@[simp] theorem clearBuf_num : (s.clearBuf).num = s.num := rfl
@[simp] theorem clearBuf_sched : (s.clearBuf).sched = s.sched := rfl
@[simp] theorem clearBuf_burst : (s.clearBuf).burst = s.burst := rfl
@[simp] theorem clearBuf_reply : (s.clearBuf).reply = s.reply := rfl
@[simp] theorem clearBuf_eng : (s.clearBuf).eng = s.eng := rfl
@[simp] theorem clearBuf_st : (s.clearBuf).st = s.st := rfl
@[simp] theorem clearBuf_reg : (s.clearBuf).reg = s.reg := rfl
@[simp] theorem clearBuf_cfg : (s.clearBuf).cfg = s.cfg := rfl
@[simp] theorem clearBuf_cal : (s.clearBuf).cal = s.cal := rfl
@[simp] theorem clearBuf_port : (s.clearBuf).port = s.port := rfl
@[simp] theorem clearBuf_rs : (s.clearBuf).rs = { s.rs with buf := [] } := rfl
@[simp] theorem clearBuf_pcmLo : (s.clearBuf).pcmLo = s.pcmLo := rfl
@[simp] theorem clearBuf_rx : (s.clearBuf).rx = s.rx := rfl
@[simp] theorem clearBuf_tx : (s.clearBuf).tx = s.tx := rfl

/-! `State.appendSample` -/

@[simp] theorem appendSample_par (q : Scalar) : (s.appendSample q).par = s.par := rfl
@[simp] theorem appendSample_num (q : Scalar) : (s.appendSample q).num = s.num := rfl
@[simp] theorem appendSample_sched (q : Scalar) : (s.appendSample q).sched = s.sched := rfl
@[simp] theorem appendSample_burst (q : Scalar) : (s.appendSample q).burst = s.burst := rfl
@[simp] theorem appendSample_reply (q : Scalar) : (s.appendSample q).reply = s.reply := rfl
@[simp] theorem appendSample_eng (q : Scalar) : (s.appendSample q).eng = s.eng := rfl
@[simp] theorem appendSample_st (q : Scalar) : (s.appendSample q).st = s.st := rfl
@[simp] theorem appendSample_reg (q : Scalar) : (s.appendSample q).reg = s.reg := rfl
@[simp] theorem appendSample_cfg (q : Scalar) : (s.appendSample q).cfg = s.cfg := rfl
@[simp] theorem appendSample_cal (q : Scalar) : (s.appendSample q).cal = s.cal := rfl
@[simp] theorem appendSample_port (q : Scalar) : (s.appendSample q).port = s.port := rfl
@[simp] theorem appendSample_rs (q : Scalar) : (s.appendSample q).rs = { s.rs with buf := s.rs.buf ++ [q] } := rfl
@[simp] theorem appendSample_pcmLo (q : Scalar) : (s.appendSample q).pcmLo = s.pcmLo := rfl
@[simp] theorem appendSample_rx (q : Scalar) : (s.appendSample q).rx = s.rx := rfl
@[simp] theorem appendSample_tx (q : Scalar) : (s.appendSample q).tx = s.tx := rfl

/-! `State.clearByteIn` -/

@[simp] theorem clearByteIn_par : (s.clearByteIn).par = s.par := rfl
@[simp] theorem clearByteIn_num : (s.clearByteIn).num = s.num := rfl
@[simp] theorem clearByteIn_sched : (s.clearByteIn).sched = s.sched := rfl
@[simp] theorem clearByteIn_burst : (s.clearByteIn).burst = s.burst := rfl
@[simp] theorem clearByteIn_reply : (s.clearByteIn).reply = s.reply := rfl
@[simp] theorem clearByteIn_eng : (s.clearByteIn).eng = s.eng := rfl
@[simp] theorem clearByteIn_st : (s.clearByteIn).st = s.st := rfl
@[simp] theorem clearByteIn_reg : (s.clearByteIn).reg = s.reg := rfl
@[simp] theorem clearByteIn_cfg : (s.clearByteIn).cfg = s.cfg := rfl
@[simp] theorem clearByteIn_cal : (s.clearByteIn).cal = s.cal := rfl
@[simp] theorem clearByteIn_port : (s.clearByteIn).port = { s.port with byteIn := [], byteInEos := false } := rfl
@[simp] theorem clearByteIn_rs : (s.clearByteIn).rs = s.rs := rfl
@[simp] theorem clearByteIn_pcmLo : (s.clearByteIn).pcmLo = s.pcmLo := rfl
@[simp] theorem clearByteIn_rx : (s.clearByteIn).rx = s.rx := rfl
@[simp] theorem clearByteIn_tx : (s.clearByteIn).tx = s.tx := rfl

/-! `State.clearSmpIn` -/

@[simp] theorem clearSmpIn_par : (s.clearSmpIn).par = s.par := rfl
@[simp] theorem clearSmpIn_num : (s.clearSmpIn).num = s.num := rfl
@[simp] theorem clearSmpIn_sched : (s.clearSmpIn).sched = s.sched := rfl
@[simp] theorem clearSmpIn_burst : (s.clearSmpIn).burst = s.burst := rfl
@[simp] theorem clearSmpIn_reply : (s.clearSmpIn).reply = s.reply := rfl
@[simp] theorem clearSmpIn_eng : (s.clearSmpIn).eng = s.eng := rfl
@[simp] theorem clearSmpIn_st : (s.clearSmpIn).st = s.st := rfl
@[simp] theorem clearSmpIn_reg : (s.clearSmpIn).reg = s.reg := rfl
@[simp] theorem clearSmpIn_cfg : (s.clearSmpIn).cfg = s.cfg := rfl
@[simp] theorem clearSmpIn_cal : (s.clearSmpIn).cal = s.cal := rfl
@[simp] theorem clearSmpIn_port : (s.clearSmpIn).port = { s.port with smpIn := [], smpInEos := false } := rfl
@[simp] theorem clearSmpIn_rs : (s.clearSmpIn).rs = s.rs := rfl
@[simp] theorem clearSmpIn_pcmLo : (s.clearSmpIn).pcmLo = none := rfl
@[simp] theorem clearSmpIn_rx : (s.clearSmpIn).rx = s.rx := rfl
@[simp] theorem clearSmpIn_tx : (s.clearSmpIn).tx = s.tx := rfl

/-! `State.sessionReset` -/

@[simp] theorem sessionReset_par : (s.sessionReset).par = s.par := rfl
@[simp] theorem sessionReset_num : (s.sessionReset).num = s.num := rfl
@[simp] theorem sessionReset_sched : (s.sessionReset).sched = s.sched := rfl
@[simp] theorem sessionReset_burst : (s.sessionReset).burst = s.burst := rfl
@[simp] theorem sessionReset_reply : (s.sessionReset).reply = s.reply := rfl
@[simp] theorem sessionReset_eng : (s.sessionReset).eng = s.eng := rfl
@[simp] theorem sessionReset_st : (s.sessionReset).st = { s.st with rej := false, wign := false, rx := .idle } := rfl
@[simp] theorem sessionReset_reg : (s.sessionReset).reg = .init := rfl
@[simp] theorem sessionReset_cfg : (s.sessionReset).cfg = s.cfg := rfl
@[simp] theorem sessionReset_cal : (s.sessionReset).cal = s.cal := rfl
@[simp] theorem sessionReset_port : (s.sessionReset).port = .init := rfl
@[simp] theorem sessionReset_rs : (s.sessionReset).rs = .init := rfl
@[simp] theorem sessionReset_pcmLo : (s.sessionReset).pcmLo = none := rfl
@[simp] theorem sessionReset_rx : (s.sessionReset).rx = .init := rfl
@[simp] theorem sessionReset_tx : (s.sessionReset).tx = .init := rfl

/-! `State.calClear` -/

@[simp] theorem calClear_par : (s.calClear).par = s.par := rfl
@[simp] theorem calClear_num : (s.calClear).num = s.num := rfl
@[simp] theorem calClear_sched : (s.calClear).sched = s.sched := rfl
@[simp] theorem calClear_burst : (s.calClear).burst = s.burst := rfl
@[simp] theorem calClear_reply : (s.calClear).reply = s.reply := rfl
@[simp] theorem calClear_eng : (s.calClear).eng = s.eng := rfl
@[simp] theorem calClear_st : (s.calClear).st = s.st := rfl
@[simp] theorem calClear_reg : (s.calClear).reg = s.reg := rfl
@[simp] theorem calClear_cfg : (s.calClear).cfg = s.cfg := rfl
@[simp] theorem calClear_cal : (s.calClear).cal = { re := Table.resetBelow s.par.kMax s.cal.re, im := Table.resetBelow s.par.kMax s.cal.im } := rfl
@[simp] theorem calClear_port : (s.calClear).port = s.port := rfl
@[simp] theorem calClear_rs : (s.calClear).rs = s.rs := rfl
@[simp] theorem calClear_pcmLo : (s.calClear).pcmLo = s.pcmLo := rfl
@[simp] theorem calClear_rx : (s.calClear).rx = s.rx := rfl
@[simp] theorem calClear_tx : (s.calClear).tx = s.tx := rfl

/-! `State.recvStart` -/

@[simp] theorem recvStart_par : (s.recvStart).par = s.par := rfl
@[simp] theorem recvStart_num : (s.recvStart).num = s.num := rfl
@[simp] theorem recvStart_sched : (s.recvStart).sched = s.sched := rfl
@[simp] theorem recvStart_burst : (s.recvStart).burst = s.burst := rfl
@[simp] theorem recvStart_reply : (s.recvStart).reply = s.reply := rfl
@[simp] theorem recvStart_eng : (s.recvStart).eng = s.eng := rfl
@[simp] theorem recvStart_st : (s.recvStart).st = { s.st with rx := .searching } := rfl
@[simp] theorem recvStart_reg : (s.recvStart).reg = { s.reg with count := 0, rxConsumed := 0, rxBlocks := 0, detOffset := 0, detPeak := bits64 0 } := rfl
@[simp] theorem recvStart_cfg : (s.recvStart).cfg = s.cfg := rfl
@[simp] theorem recvStart_cal : (s.recvStart).cal = s.cal := rfl
@[simp] theorem recvStart_port : (s.recvStart).port = s.port := rfl
@[simp] theorem recvStart_rs : (s.recvStart).rs = { s.rs with buf := [] } := rfl
@[simp] theorem recvStart_pcmLo : (s.recvStart).pcmLo = s.pcmLo := rfl
@[simp] theorem recvStart_rx : (s.recvStart).rx = .init := rfl
@[simp] theorem recvStart_tx : (s.recvStart).tx = s.tx := rfl

/-! `State.answer` -/

@[simp] theorem answer_par (r : Reply) : (s.answer r).par = s.par := rfl
@[simp] theorem answer_num (r : Reply) : (s.answer r).num = s.num := rfl
@[simp] theorem answer_sched (r : Reply) : (s.answer r).sched = s.sched := rfl
@[simp] theorem answer_burst (r : Reply) : (s.answer r).burst = s.burst := rfl
@[simp] theorem answer_reply (r : Reply) : (s.answer r).reply = r := rfl
@[simp] theorem answer_eng (r : Reply) : (s.answer r).eng = s.eng := rfl
@[simp] theorem answer_st (r : Reply) : (s.answer r).st = s.st := rfl
@[simp] theorem answer_reg (r : Reply) : (s.answer r).reg = s.reg := rfl
@[simp] theorem answer_cfg (r : Reply) : (s.answer r).cfg = s.cfg := rfl
@[simp] theorem answer_cal (r : Reply) : (s.answer r).cal = s.cal := rfl
@[simp] theorem answer_port (r : Reply) : (s.answer r).port = s.port := rfl
@[simp] theorem answer_rs (r : Reply) : (s.answer r).rs = s.rs := rfl
@[simp] theorem answer_pcmLo (r : Reply) : (s.answer r).pcmLo = s.pcmLo := rfl
@[simp] theorem answer_rx (r : Reply) : (s.answer r).rx = s.rx := rfl
@[simp] theorem answer_tx (r : Reply) : (s.answer r).tx = s.tx := rfl

/-! `State.beginTurn` -/

@[simp] theorem beginTurn_par (t : Turn) (rest : List Turn) : (s.beginTurn t rest).par = s.par := rfl
@[simp] theorem beginTurn_num (t : Turn) (rest : List Turn) : (s.beginTurn t rest).num = s.num := rfl
@[simp] theorem beginTurn_sched (t : Turn) (rest : List Turn) : (s.beginTurn t rest).sched = rest := rfl
@[simp] theorem beginTurn_burst (t : Turn) (rest : List Turn) : (s.beginTurn t rest).burst = t.burst := rfl
@[simp] theorem beginTurn_reply (t : Turn) (rest : List Turn) : (s.beginTurn t rest).reply = .none := rfl
@[simp] theorem beginTurn_eng (t : Turn) (rest : List Turn) : (s.beginTurn t rest).eng = s.eng := rfl
@[simp] theorem beginTurn_st (t : Turn) (rest : List Turn) : (s.beginTurn t rest).st = s.st := rfl
@[simp] theorem beginTurn_reg (t : Turn) (rest : List Turn) : (s.beginTurn t rest).reg = s.reg := rfl
@[simp] theorem beginTurn_cfg (t : Turn) (rest : List Turn) : (s.beginTurn t rest).cfg = s.cfg := rfl
@[simp] theorem beginTurn_cal (t : Turn) (rest : List Turn) : (s.beginTurn t rest).cal = s.cal := rfl
@[simp] theorem beginTurn_port (t : Turn) (rest : List Turn) : (s.beginTurn t rest).port = s.port := rfl
@[simp] theorem beginTurn_rs (t : Turn) (rest : List Turn) : (s.beginTurn t rest).rs = s.rs := rfl
@[simp] theorem beginTurn_pcmLo (t : Turn) (rest : List Turn) : (s.beginTurn t rest).pcmLo = s.pcmLo := rfl
@[simp] theorem beginTurn_rx (t : Turn) (rest : List Turn) : (s.beginTurn t rest).rx = s.rx := rfl
@[simp] theorem beginTurn_tx (t : Turn) (rest : List Turn) : (s.beginTurn t rest).tx = s.tx := rfl

/-! `State.load` changes the engine mode alone. -/

@[simp] theorem load_par (todo : List Act) (ph : Phase) : (s.load todo ph).par = s.par := by
  unfold State.load; split <;> rfl
@[simp] theorem load_num (todo : List Act) (ph : Phase) : (s.load todo ph).num = s.num := by
  unfold State.load; split <;> rfl
@[simp] theorem load_sched (todo : List Act) (ph : Phase) : (s.load todo ph).sched = s.sched := by
  unfold State.load; split <;> rfl
@[simp] theorem load_burst (todo : List Act) (ph : Phase) : (s.load todo ph).burst = s.burst := by
  unfold State.load; split <;> rfl
@[simp] theorem load_reply (todo : List Act) (ph : Phase) : (s.load todo ph).reply = s.reply := by
  unfold State.load; split <;> rfl
@[simp] theorem load_st (todo : List Act) (ph : Phase) : (s.load todo ph).st = s.st := by
  unfold State.load; split <;> rfl
@[simp] theorem load_reg (todo : List Act) (ph : Phase) : (s.load todo ph).reg = s.reg := by
  unfold State.load; split <;> rfl
@[simp] theorem load_cfg (todo : List Act) (ph : Phase) : (s.load todo ph).cfg = s.cfg := by
  unfold State.load; split <;> rfl
@[simp] theorem load_cal (todo : List Act) (ph : Phase) : (s.load todo ph).cal = s.cal := by
  unfold State.load; split <;> rfl
@[simp] theorem load_port (todo : List Act) (ph : Phase) : (s.load todo ph).port = s.port := by
  unfold State.load; split <;> rfl
@[simp] theorem load_rs (todo : List Act) (ph : Phase) : (s.load todo ph).rs = s.rs := by
  unfold State.load; split <;> rfl
@[simp] theorem load_pcmLo (todo : List Act) (ph : Phase) : (s.load todo ph).pcmLo = s.pcmLo := by
  unfold State.load; split <;> rfl
@[simp] theorem load_rx (todo : List Act) (ph : Phase) : (s.load todo ph).rx = s.rx := by
  unfold State.load; split <;> rfl
@[simp] theorem load_tx (todo : List Act) (ph : Phase) : (s.load todo ph).tx = s.tx := by
  unfold State.load; split <;> rfl

theorem load_run {s : State} {c : Instr} {todo0 : List Act} {ph0 : Phase} (h : s.eng = .run c todo0 ph0)
    (todo : List Act) (ph : Phase) : s.load todo ph = { s with eng := .run c todo ph } := by
  unfold State.load; rw [h]

theorem load_eng {s : State} {c : Instr} {todo0 : List Act} {ph0 : Phase} (h : s.eng = .run c todo0 ph0)
    (todo : List Act) (ph : Phase) : (s.load todo ph).eng = .run c todo ph := by
  rw [load_run h]

/-! BUSY follows the engine mode (10_state.md R85). -/

theorem busy_eq_false_iff : s.busy = false ↔ s.eng = .idle := by
  unfold State.busy; split <;> simp_all

theorem busy_eq_true_iff : s.busy = true ↔ ∃ c todo ph, s.eng = .run c todo ph := by
  unfold State.busy; split <;> simp_all

@[simp] theorem load_busy (todo : List Act) (ph : Phase) : (s.load todo ph).busy = s.busy := by
  cases h : s.eng <;> simp [State.load, State.busy, h]

@[simp] theorem accept_busy (c : Instr) : (s.accept c).busy = true := rfl
@[simp] theorem endWith_busy (c : Cause) : (s.endWith c).busy = false := rfl

end Sys2Proof.Machine
end

