-- ==== Sys2Proof/Laws/Ops.lean ====
section
/-! SUPPORT. What each shared operation can do, said once: register tables, pops, pushes, fetches, and the issue of a
command. -/

namespace Sys2Proof.Machine

/-! ### Register tables keep their canonical form, and read back what was written -/

namespace Table

variable {w : Nat} {d : BitVec w}

theorem wfFrom_mono {lo lo' : Nat} (h : lo ≤ lo') {t : Table w} (ht : wfFrom d lo' t = true) : wfFrom d lo t = true := by
  cases t with
  | nil => rfl
  | cons c t =>
    simp only [wfFrom, Bool.and_eq_true, decide_eq_true_eq] at ht ⊢
    exact ⟨⟨by omega, ht.1.2⟩, ht.2⟩

theorem wfFrom_put {lo i : Nat} (hi : lo ≤ i) (v : BitVec w) {t : Table w} (ht : wfFrom d lo t = true) :
    wfFrom d lo (put d t i v) = true := by
  induction t generalizing lo with
  | nil => unfold put; split <;> simp_all [wfFrom]
  | cons c t ih =>
    obtain ⟨a, x⟩ := c
    simp only [wfFrom, Bool.and_eq_true, decide_eq_true_eq] at ht
    obtain ⟨⟨hlo, hx⟩, ht⟩ := ht
    unfold put
    split
    · split <;> simp_all [wfFrom]
    · split
      · split
        · exact wfFrom_mono (by omega) ht
        · simp_all [wfFrom]
      · simp only [wfFrom, Bool.and_eq_true, decide_eq_true_eq]
        exact ⟨⟨hlo, hx⟩, ih (by omega) ht⟩

/-- A write keeps the canonical form. -/
theorem wf_put (i : Nat) (v : BitVec w) {t : Table w} (ht : wf d t = true) : wf d (put d t i v) = true :=
  wfFrom_put (Nat.zero_le i) v ht

theorem wfFrom_filter (p : Nat × BitVec w → Bool) {lo : Nat} {t : Table w} (ht : wfFrom d lo t = true) :
    wfFrom d lo (t.filter p) = true := by
  induction t generalizing lo with
  | nil => rfl
  | cons c t ih =>
    obtain ⟨a, x⟩ := c
    simp only [wfFrom, Bool.and_eq_true, decide_eq_true_eq] at ht
    rw [List.filter_cons]
    split
    · simp only [wfFrom, Bool.and_eq_true, decide_eq_true_eq]
      exact ⟨ht.1, ih ht.2⟩
    · exact wfFrom_mono (by omega) (ih ht.2)

/-- Writing the reset value to the low entries keeps the canonical form. -/
theorem wf_resetBelow (n : Nat) {t : Table w} (ht : wf d t = true) : wf d (resetBelow n t) = true :=
  wfFrom_filter _ ht

theorem get_of_lt {lo i : Nat} (hi : i < lo) {t : Table w} (ht : wfFrom d lo t = true) : get d t i = d := by
  induction t generalizing lo with
  | nil => rfl
  | cons c t ih =>
    obtain ⟨a, x⟩ := c
    simp only [wfFrom, Bool.and_eq_true, decide_eq_true_eq] at ht
    unfold get
    rw [if_neg (by omega)]
    exact ih (by omega) ht.2

theorem get_put_from {lo : Nat} (i : Nat) (v : BitVec w) {t : Table w} (ht : wfFrom d lo t = true) (j : Nat) :
    get d (put d t i v) j = if j = i then v else get d t j := by
  induction t generalizing lo with
  | nil => unfold put; split <;> simp_all [get]
  | cons c t ih =>
    obtain ⟨a, x⟩ := c
    simp only [wfFrom, Bool.and_eq_true, decide_eq_true_eq] at ht
    have hbelow : ∀ k, k ≤ a → get d t k = d := fun k hk => get_of_lt (by omega) ht.2
    unfold put
    by_cases h1 : i < a
    · rw [if_pos h1]
      split
      · rename_i hv
        by_cases hj : j = i
        · subst hj; simp [get, hbelow j (by omega), hv, show j ≠ a by omega]
        · simp [hj]
      · by_cases hj : j = i <;> simp [get, hj]
    · rw [if_neg h1]
      by_cases h2 : i = a
      · rw [if_pos h2]
        split
        · rename_i hv
          by_cases hj : j = i
          · subst hj; simp [h2, hbelow a (Nat.le_refl a), hv]
          · simp [get, hj, show j ≠ a by omega]
        · by_cases hj : j = i
          · simp [get, hj]
          · simp [get, hj, show j ≠ a by omega]
      · rw [if_neg h2]
        by_cases hj : j = a
        · simp [get, hj, show a ≠ i by omega]
        · simp [get, hj, ih ht.2]

/-- Read after write: the entry written reads as the value, every other entry as before. -/
theorem get_put (i : Nat) (v : BitVec w) {t : Table w} (ht : wf d t = true) (j : Nat) :
    get d (put d t i v) j = if j = i then v else get d t j :=
  get_put_from i v ht j

theorem get_resetBelow_from (n : Nat) {lo : Nat} {t : Table w} (ht : wfFrom d lo t = true) (j : Nat) :
    get d (resetBelow n t) j = if j < n then d else get d t j := by
  induction t generalizing lo with
  | nil => simp [resetBelow, get]
  | cons c t ih =>
    obtain ⟨a, x⟩ := c
    simp only [wfFrom, Bool.and_eq_true, decide_eq_true_eq] at ht
    have ih := ih ht.2
    unfold resetBelow at ih ⊢
    rw [List.filter_cons]
    split
    · rename_i ha
      simp only [decide_eq_true_eq] at ha
      by_cases hj : j = a
      · simp [get, hj, show ¬ a < n by omega]
      · simp [get, hj, ih]
    · rename_i ha
      simp only [decide_eq_true_eq] at ha
      rw [ih]
      by_cases hj : j = a
      · simp [hj, show a < n by omega]
      · simp [get, hj]

/-- After the low entries were reset, they read as the reset value and every other entry as before. -/
theorem get_resetBelow (n : Nat) {t : Table w} (ht : wf d t = true) (j : Nat) :
    get d (resetBelow n t) j = if j < n then d else get d t j :=
  get_resetBelow_from n ht j

end Table

/-! ### Pops -/

section
variable {s t : State}

/-- A pop of BYTE_IN that answers a unit takes the oldest and changes nothing else (20_memory.md R107). -/
theorem popByte_got {b : Byte} (h : s.popByte = .got b t) :
    s.port.byteIn = b :: t.port.byteIn ∧ t = { s with port := { s.port with byteIn := t.port.byteIn } } := by
  unfold State.popByte at h
  cases hb : s.port.byteIn with
  | nil => rw [hb] at h; dsimp only at h; split at h <;> cases h
  | cons c r => rw [hb] at h; cases h; exact ⟨rfl, rfl⟩

/-- A pop of SYM_IN that answers a unit takes the oldest and changes nothing else (20_memory.md R107). -/
theorem popSym_got {u : SymbolUnit} (h : s.popSym = .got u t) :
    s.port.symIn = u :: t.port.symIn ∧ t = { s with port := { s.port with symIn := t.port.symIn } } := by
  unfold State.popSym at h
  cases hb : s.port.symIn with
  | nil => rw [hb] at h; dsimp only at h; split at h <;> cases h
  | cons c r => rw [hb] at h; cases h; exact ⟨rfl, rfl⟩

/-- A pop of SMP_IN outside RECV takes the oldest unit and changes nothing else (20_memory.md R107, 44_frame_rx.md R326). -/
theorem popSmp_got {u : SampleUnit} (h : s.popSmp false = .got u t) :
    s.port.smpIn = u :: t.port.smpIn ∧ t = { s with port := { s.port with smpIn := t.port.smpIn } } := by
  unfold State.popSmp at h
  cases hb : s.port.smpIn with
  | nil => rw [hb] at h; dsimp only at h; split at h <;> cases h
  | cons c r => rw [hb] at h; simp only [Bool.false_eq_true, if_false] at h; cases h; exact ⟨rfl, rfl⟩

/-- A pop of SMP_IN in RECV takes the oldest unit, counts it and, with DUMP_EN = 1, mirrors it (44_frame_rx.md R325). -/
theorem popSmp_recv_got {u : SampleUnit} (h : s.popSmp true = .got u t) :
    s.port.smpIn = u :: t.port.smpIn ∧
    t.port.dump = (if s.dumpEn then s.port.dump ++ [u] else s.port.dump) ∧
    (s.dumpEn = true → s.port.dump.length < s.par.depth.dump) ∧
    t = { s with
      port := { s.port with smpIn := t.port.smpIn, dump := t.port.dump }
      reg := { s.reg with rxConsumed := s.reg.rxConsumed + 1 } } := by
  unfold State.popSmp at h
  cases hb : s.port.smpIn with
  | nil => rw [hb] at h; dsimp only at h; split at h <;> cases h
  | cons c r =>
    rw [hb] at h
    simp only [if_true] at h
    split at h
    · cases h
    · rename_i hfull
      cases h
      refine ⟨rfl, rfl, ?_, rfl⟩
      intro hd
      simp only [hd, Bool.true_and, decide_eq_true_eq] at hfull
      omega

/-! ### Pushes -/

theorem pushSmp_eq_some {u : SampleUnit} : s.pushSmp u = some t ↔
    s.port.smpOut.length < s.par.depth.smpOut ∧ { s with port := { s.port with smpOut := s.port.smpOut ++ [u] } } = t := by
  unfold State.pushSmp; split <;> simp_all

theorem pushSym_eq_some {u : SymbolUnit} : s.pushSym u = some t ↔
    s.port.symOut.length < s.par.depth.symOut ∧ { s with port := { s.port with symOut := s.port.symOut ++ [u] } } = t := by
  unfold State.pushSym; split <;> simp_all

theorem pushByte_eq_some {b : Byte} : s.pushByte b = some t ↔
    s.port.byteOut.length < s.par.depth.byteOut ∧
      { s with port := { s.port with byteOut := s.port.byteOut ++ [b] } } = t := by
  unfold State.pushByte; split <;> simp_all

/-! ### Samples -/

/-- What a popped sample unit does (20_memory.md R109, R114): it is a pop of SMP_IN, then in PCM mode the pending byte
alone changes. -/
theorem popSample_got {recv : Bool} {x : Option Scalar} (h : s.popSample recv = .got x t) :
    ∃ u t₀, s.popSmp recv = .got u t₀ ∧
      ((s.pcmEn = false ∧ x = some u.asReal ∧ t = t₀) ∨
       (s.pcmEn = true ∧ s.pcmLo = none ∧ x = none ∧ t = { t₀ with pcmLo := some u.asByte }) ∨
       (s.pcmEn = true ∧ ∃ lo, s.pcmLo = some lo ∧ x = some (pcmValue s.num s.sigma lo u.asByte) ∧
         t = { t₀ with pcmLo := none })) := by
  unfold State.popSample at h
  cases hp : s.popSmp recv with
  | hold => rw [hp] at h; cases h
  | eos => rw [hp] at h; cases h
  | got u t₀ =>
    rw [hp] at h
    refine ⟨u, t₀, rfl, ?_⟩
    cases hpcm : s.pcmEn with
    | false => rw [hpcm] at h; simp only [Bool.false_eq_true, if_false] at h; cases h; exact .inl ⟨rfl, rfl, rfl⟩
    | true =>
      rw [hpcm] at h
      simp only [if_true] at h
      cases hlo : s.pcmLo with
      | none => rw [hlo] at h; cases h; exact .inr (.inl ⟨rfl, rfl, rfl, rfl⟩)
      | some lo => rw [hlo] at h; cases h; exact .inr (.inr ⟨rfl, lo, rfl, rfl, rfl⟩)

/-- A fetch that makes progress took one unit, and appended a sample to `rs.buf` if the unit completed one
(40_resampler.md R173). -/
theorem fetch_progress {recv : Bool} {i : Int} (h : s.fetch recv i = .progress t) :
    (s.rs.buf.length : Int) ≤ i ∧
    ((s.popSample recv = .got none t) ∨ ∃ x t₀, s.popSample recv = .got (some x) t₀ ∧ t = t₀.appendSample x) := by
  unfold State.fetch at h
  split at h
  · cases h
  · rename_i hlt
    refine ⟨by omega, ?_⟩
    split at h
    · cases h
    · cases h
    · rename_i heq; cases h; exact .inl heq
    · rename_i x t₀ heq; cases h; exact .inr ⟨x, t₀, heq, rfl⟩

theorem fetch_ready {recv : Bool} {i : Int} : s.fetch recv i = .ready ↔ i < (s.rs.buf.length : Int) := by
  unfold State.fetch
  split
  · simp_all
  · rename_i hlt
    constructor
    · intro h; split at h <;> cases h
    · intro h; exact absurd h hlt

/-- No pop but of an empty port can hold or end: a non-empty SMP_IN outside RECV always gives a unit. -/
theorem popSmp_cons {u : SampleUnit} {rest : List SampleUnit} (h : s.port.smpIn = u :: rest) :
    s.popSmp false = .got u { s with port := { s.port with smpIn := rest } } := by
  unfold State.popSmp; rw [h]; rfl

end

/-! ### Issue -/

section
variable (s : State)

theorem issue_busy {c : Instr} {check : State → Bool} {start : State → State} (h : s.busy = true) :
    s.issue c check start = s.reject := by
  unfold State.issue; rw [if_pos h]

theorem issue_bad {c : Instr} {check : State → Bool} {start : State → State} (h : s.busy = false)
    (hc : check (s.accept c) = false) : s.issue c check start = (s.accept c).endWith .badConfig := by
  unfold State.issue; rw [if_neg (by simp [h]), if_neg (by simp [hc])]

theorem issue_ok {c : Instr} {check : State → Bool} {start : State → State} (h : s.busy = false)
    (hc : check (s.accept c) = true) : s.issue c check start = start (s.accept c) := by
  unfold State.issue; rw [if_neg (by simp [h]), if_pos hc]

/-- The checks read the parameters, the configuration and the CAL table alone. -/
theorem checks_congr {s t : State} (hp : s.par = t.par) (hc : s.cfg = t.cfg) (hcal : s.cal = t.cal) (c : Instr) :
    s.checks c = t.checks c := by
  have e : { s with par := t.par, cfg := t.cfg, cal := t.cal } = s := by rw [← hp, ← hc, ← hcal]
  rw [← e]
  cases c <;> rfl

@[simp] theorem accept_checks (c i : Instr) : (s.accept c).checks i = s.checks i :=
  checks_congr (by simp) (by simp) (by simp) i

end

end Sys2Proof.Machine
end

