-- ==== Sys2Proof/Laws/Engine.lean ====
section
/-! SUPPORT. What one engine step, a run of engine steps, a command and a turn can do, said once. -/

namespace Sys2Proof.Machine

/-! ### One engine step -/

section
variable {s t : State}

theorem engineStep_idle (h : s.eng = .idle) : s.engineStep = none := by
  unfold State.engineStep; rw [h]

theorem engineStep_act {c : Instr} {a : Act} {rest : List Act} {ph : Phase} (h : s.eng = .run c (a :: rest) ph) :
    s.engineStep = (s.load rest ph).perform a := by
  unfold State.engineStep; rw [h]

theorem engineStep_phase {c : Instr} {ph : Phase} (h : s.eng = .run c [] ph) : s.engineStep = s.stepPhase ph := by
  unfold State.engineStep; rw [h]

/-- An engine step performs the first fixed action, or makes a step of the phase's rule. -/
theorem engineStep_cases (h : s.engineStep = some t) :
    (∃ c a rest ph, s.eng = .run c (a :: rest) ph ∧ (s.load rest ph).perform a = some t) ∨
    (∃ c ph, s.eng = .run c [] ph ∧ s.stepPhase ph = some t) := by
  cases he : s.eng with
  | idle => rw [engineStep_idle he] at h; cases h
  | run c todo ph =>
    cases todo with
    | nil => rw [engineStep_phase he] at h; exact .inr ⟨c, ph, rfl, h⟩
    | cons a rest => rw [engineStep_act he] at h; exact .inl ⟨c, a, rest, ph, rfl, h⟩

/-! ### What no engine step changes -/

/-- The instance, the host's transactions, the last answer and the configuration are the same in both states. -/
structure KeepsSetup (s t : State) : Prop where
  par : t.par = s.par
  num : t.num = s.num
  sched : t.sched = s.sched
  burst : t.burst = s.burst
  reply : t.reply = s.reply
  cfg : t.cfg = s.cfg

theorem KeepsSetup.refl (s : State) : KeepsSetup s s := ⟨rfl, rfl, rfl, rfl, rfl, rfl⟩

theorem KeepsSetup.trans {s t u : State} (h : KeepsSetup s t) (k : KeepsSetup t u) : KeepsSetup s u :=
  ⟨k.par.trans h.par, k.num.trans h.num, k.sched.trans h.sched, k.burst.trans h.burst, k.reply.trans h.reply,
    k.cfg.trans h.cfg⟩

theorem keepsSetup_perform {a : Act} (h : s.perform a = some t) : KeepsSetup s t := by
  cases a <;> simp only [State.perform, pushSmp_eq_some, pushSym_eq_some, pushByte_eq_some, Option.some.injEq] at h
  case pushSmp => obtain ⟨-, rfl⟩ := h; exact ⟨rfl, rfl, rfl, rfl, rfl, rfl⟩
  case pushSym => obtain ⟨-, rfl⟩ := h; exact ⟨rfl, rfl, rfl, rfl, rfl, rfl⟩
  case pushByte => obtain ⟨-, rfl⟩ := h; exact ⟨rfl, rfl, rfl, rfl, rfl, rfl⟩
  all_goals subst h; exact ⟨rfl, rfl, rfl, rfl, rfl, rfl⟩

theorem keepsSetup_load (todo : List Act) (ph : Phase) : KeepsSetup s (s.load todo ph) :=
  ⟨by simp, by simp, by simp, by simp, by simp, by simp⟩

theorem keepsSetup_thenLoad {u : State} (h : KeepsSetup s u) (todo : List Act) (ph : Phase) :
    KeepsSetup s (u.load todo ph) :=
  h.trans (keepsSetup_load todo ph)

theorem keepsSetup_popSmp {recv : Bool} {u : SampleUnit} (h : s.popSmp recv = .got u t) : KeepsSetup s t := by
  cases recv with
  | false => rw [(popSmp_got h).2]; exact ⟨rfl, rfl, rfl, rfl, rfl, rfl⟩
  | true => rw [(popSmp_recv_got h).2.2.2]; exact ⟨rfl, rfl, rfl, rfl, rfl, rfl⟩

theorem keepsSetup_popSample {recv : Bool} {x : Option Scalar} (h : s.popSample recv = .got x t) : KeepsSetup s t := by
  obtain ⟨u, t₀, hp, hx⟩ := popSample_got h
  have h₀ := keepsSetup_popSmp hp
  obtain ⟨-, -, rfl⟩ | ⟨-, -, -, rfl⟩ | ⟨-, lo, -, -, rfl⟩ := hx
  · exact h₀
  · exact h₀.trans ⟨rfl, rfl, rfl, rfl, rfl, rfl⟩
  · exact h₀.trans ⟨rfl, rfl, rfl, rfl, rfl, rfl⟩

theorem keepsSetup_fetch {recv : Bool} {i : Int} (h : s.fetch recv i = .progress t) : KeepsSetup s t := by
  obtain ⟨-, hp | ⟨x, t₀, hp, rfl⟩⟩ := fetch_progress h
  · exact keepsSetup_popSample hp
  · exact (keepsSetup_popSample hp).trans ⟨rfl, rfl, rfl, rfl, rfl, rfl⟩

theorem keepsSetup_rsStep : KeepsSetup s s.rsStep := ⟨rfl, rfl, rfl, rfl, rfl, rfl⟩

theorem keepsSetup_endWith (c : Cause) : KeepsSetup s (s.endWith c) := ⟨rfl, rfl, rfl, rfl, rfl, rfl⟩

theorem keepsSetup_peakFound : KeepsSetup s s.peakFound :=
  keepsSetup_thenLoad (by constructor <;> rfl) _ _

theorem keepsSetup_stepPhase {ph : Phase} (h : s.stepPhase ph = some t) : KeepsSetup s t := by
  have hload := fun (u : State) (todo : List Act) (q : Phase) => @keepsSetup_load u todo q
  cases ph with
  | adv left =>
    cases left with
    | zero => cases h; exact keepsSetup_endWith _
    | succ left =>
      simp only [State.stepPhase, State.stepAdv] at h
      split at h
      · cases h
      · cases h; exact keepsSetup_endWith _
      · rename_i hf; cases h; exact keepsSetup_fetch hf
      · cases h; exact keepsSetup_rsStep.trans (hload _ _ _)
  | mod left syms =>
    cases left with
    | zero => cases h; exact keepsSetup_endWith _
    | succ left =>
      simp only [State.stepPhase, State.stepMod] at h
      split at h
      · cases h
      · cases h; exact keepsSetup_endWith _
      · rename_i u t₀ hp
        have h₀ : KeepsSetup s t₀ := by rw [(popSym_got hp).2]; exact ⟨rfl, rfl, rfl, rfl, rfl, rfl⟩
        split at h <;> cases h <;> exact h₀.trans (hload _ _ _)
  | demod left win =>
    cases left with
    | zero => cases h; exact keepsSetup_endWith _
    | succ left =>
      simp only [State.stepPhase, State.stepDemod] at h
      split at h
      · cases h
      · cases h; exact keepsSetup_endWith _
      · rename_i hf; cases h; exact keepsSetup_fetch hf
      · split at h <;> cases h <;> exact keepsSetup_rsStep.trans (hload _ _ _)
  | lead left => cases left <;> (cases h; exact hload _ _ _)
  | preamble i =>
    simp only [State.stepPhase, State.stepPreamble] at h
    split at h
    · cases h; exact hload _ _ _
    · cases h; exact keepsSetup_thenLoad (by constructor <;> rfl) _ _
  | data =>
    simp only [State.stepPhase, State.stepData] at h
    split at h
    · cases h
    · cases h; exact hload _ _ _
    · rename_i b t₀ hp
      have h₀ : KeepsSetup s { t₀ with tx := { t₀.tx with tbuf := s.tx.tbuf ++ [b] } } := by
        rw [(popByte_got hp).2]; exact ⟨rfl, rfl, rfl, rfl, rfl, rfl⟩
      split at h <;> cases h <;> exact h₀.trans (hload _ _ _)
  | emit queue last =>
    cases queue <;>
      (cases h; exact keepsSetup_thenLoad (by constructor <;> rfl) _ _)
  | pad =>
    simp only [State.stepPhase, State.stepPad] at h
    split at h
    · cases h; exact hload _ _ _
    · cases h; exact keepsSetup_thenLoad (by constructor <;> rfl) _ _
  | trail left => cases left <;> (cases h; exact hload _ _ _)
  | skip left =>
    cases left with
    | zero => cases h; exact keepsSetup_thenLoad (by constructor <;> rfl) _ _
    | succ left =>
      simp only [State.stepPhase, State.stepSkip] at h
      split at h
      · cases h
      · cases h; exact hload _ _ _
      · rename_i hp; cases h; exact keepsSetup_popSample hp
      · rename_i hp; cases h; exact (keepsSetup_popSample hp).trans (hload _ _ _)
  | search =>
    simp only [State.stepPhase, State.stepSearch] at h
    split at h
    · cases h; exact hload _ _ _
    · split at h
      · cases h
      · cases h; exact hload _ _ _
      · rename_i hf; cases h; exact keepsSetup_fetch hf
      · split at h
        · cases h; exact keepsSetup_thenLoad (by constructor <;> rfl) _ _
        · cases h; exact ⟨rfl, rfl, rfl, rfl, rfl, rfl⟩
  | refine =>
    simp only [State.stepPhase, State.stepRefine] at h
    split at h
    · cases h; exact keepsSetup_peakFound
    · split at h
      · cases h
      · cases h; exact keepsSetup_peakFound
      · rename_i hf; cases h; exact keepsSetup_fetch hf
      · split at h <;> cases h <;> exact ⟨rfl, rfl, rfl, rfl, rfl, rfl⟩
  | calibrate =>
    simp only [State.stepPhase, State.stepCalibrate, Option.some.injEq] at h
    rw [← h]
    exact keepsSetup_thenLoad (by constructor <;> rfl) _ _
  | receive win =>
    simp only [State.stepPhase, State.stepReceive] at h
    split at h
    · cases h
    · cases h; exact hload _ _ _
    · rename_i hf; cases h; exact keepsSetup_fetch hf
    · split at h <;> cases h <;> exact keepsSetup_rsStep.trans (hload _ _ _)
  | rxBits bits pilot =>
    simp only [State.stepPhase, State.stepRxBits] at h
    split at h
    · cases h; exact hload _ _ _
    · cases bits <;> (cases h; first | exact hload _ _ _ |
        exact keepsSetup_thenLoad (by constructor <;> rfl) _ _)
  | confirm left =>
    cases left with
    | zero => cases h; exact hload _ _ _
    | succ left =>
      simp only [State.stepPhase, State.stepConfirm] at h
      split at h
      · cases h
      · cases h; exact hload _ _ _
      · rename_i hf; cases h; exact keepsSetup_fetch hf
      · cases h; exact keepsSetup_rsStep.trans (hload _ _ _)
  | closing => cases h

/-- No engine step changes the instance, the schedule, the last answer or the configuration (45_control.md R345). -/
theorem keepsSetup_engineStep (h : s.engineStep = some t) : KeepsSetup s t := by
  obtain ⟨c, a, rest, ph, -, h⟩ | ⟨c, ph, -, h⟩ := engineStep_cases h
  · exact (keepsSetup_load rest ph).trans (keepsSetup_perform h)
  · exact keepsSetup_stepPhase h

end

/-! ### A run of engine steps -/

section
variable {s t : State}

@[simp] theorem runEngine_zero (s : State) : State.runEngine 0 s = s := rfl

theorem runEngine_some (h : s.engineStep = some t) (k : Nat) : State.runEngine (k + 1) s = State.runEngine k t := by
  show (match s.engineStep with | none => s | some t => State.runEngine k t) = _
  rw [h]

/-- An engine that takes no step stays where it is, however many steps it may take. -/
theorem runEngine_none (h : s.engineStep = none) (k : Nat) : State.runEngine k s = s := by
  cases k with
  | zero => rfl
  | succ k =>
    show (match s.engineStep with | none => s | some t => State.runEngine k t) = _
    rw [h]

theorem runEngine_idle (h : s.eng = .idle) (k : Nat) : State.runEngine k s = s := runEngine_none (engineStep_idle h) k

theorem runEngine_add (j k : Nat) (s : State) :
    State.runEngine (j + k) s = State.runEngine k (State.runEngine j s) := by
  induction j generalizing s with
  | zero => simp
  | succ j ih =>
    cases h : s.engineStep with
    | none => rw [runEngine_none h, runEngine_none h, runEngine_none h]
    | some t => rw [show j + 1 + k = (j + k) + 1 by omega, runEngine_some h, runEngine_some h, ih]

/-- Once a run has come to rest, more steps change nothing. -/
theorem runEngine_of_rest {j k : Nat} (hjk : j ≤ k) (h : (State.runEngine j s).engineStep = none) :
    State.runEngine k s = State.runEngine j s := by
  obtain ⟨i, rfl⟩ := Nat.exists_eq_add_of_le hjk
  rw [runEngine_add, runEngine_none h]

/-- What every engine step keeps, every run keeps. -/
theorem runEngine_keeps {P : State → Prop} (hstep : ∀ s t, P s → s.engineStep = some t → P t) (k : Nat) {s : State}
    (h : P s) : P (State.runEngine k s) := by
  induction k generalizing s with
  | zero => exact h
  | succ k ih =>
    cases hs : s.engineStep with
    | none => rw [runEngine_none hs]; exact h
    | some t => rw [runEngine_some hs]; exact ih (hstep s t h hs)

/-- What every engine step relates to the state before, transitively, every run does. -/
theorem runEngine_relates {R : State → State → Prop} (hrefl : ∀ s, R s s) (htrans : ∀ s t u, R s t → R t u → R s u)
    (hstep : ∀ s t, s.engineStep = some t → R s t) (k : Nat) (s : State) : R s (State.runEngine k s) :=
  runEngine_keeps (P := R s) (fun _ _ h hs => htrans _ _ _ h (hstep _ _ hs)) k (hrefl s)

theorem keepsSetup_runEngine (k : Nat) (s : State) : KeepsSetup s (State.runEngine k s) :=
  runEngine_relates KeepsSetup.refl (fun _ _ _ => KeepsSetup.trans) (fun _ _ => keepsSetup_engineStep) k s

theorem keepsSetup_drive (s : State) : KeepsSetup s s.drive := keepsSetup_runEngine s.burst s

theorem drive_idle (h : s.eng = .idle) : s.drive = s := runEngine_idle h s.burst

end

/-! ### A command and a turn -/

/-- The state in which a command's issue leaves the machine, before the engine's steps of the turn. -/
def issued : Instr → State → State
  | .nop, s => s.issue .nop (·.checks .nop) (·.endWith .none)
  | .srst, s =>
    if s.busy then s.sessionReset.endWith .aborted
    else s.issue .srst (·.checks .srst) (·.sessionReset.endWith .none)
  | .calClear, s => s.issue .calClear (·.checks .calClear) (·.calClear.endWith .none)
  | .send, s => s.issue .send (·.checks .send) (fun t => t.load [] (.lead t.cfg.silStart.toNat))
  | .recv, s => s.issue .recv (·.checks .recv) (fun t => t.recvStart.load [] (.skip t.cfg.skip.toNat))
  | .mod n, s => s.issue (.mod n) (·.checks (.mod n)) (fun t => if n = 0 then t.endWith .none else t.load [] (.mod n []))
  | .demod n, s =>
    s.issue (.demod n) (·.checks (.demod n)) (fun t => if n = 0 then t.endWith .none else t.load [] (.demod n []))
  | .rsInit, s => s.issue .rsInit (·.checks .rsInit) (·.rsInit.endWith .none)
  | .rsRatio, s => s.issue .rsRatio (·.checks .rsRatio) (fun t => (t.setRatio t.ratio0).endWith .none)
  | .rsAdv n, s => s.issue (.rsAdv n) (·.checks (.rsAdv n)) (fun t => if n = 0 then t.endWith .none else t.load [] (.adv n))

/-- Every command answers a next state: its issue, then the engine's steps. -/
theorem exec_eq (i : Instr) (s : State) : exec i s = .next (issued i s).drive := by
  cases i <;> rfl

/-- The state after a turn's transaction, before the engine's steps. -/
def turned (s : State) (t : Turn) (rest : List Turn) : State :=
  match t.txn.ctrlWord with
  | some v =>
    match decodeWord v with
    | .ok i => issued i (s.beginTurn t rest)
    | .error _ => (s.beginTurn t rest).issueIllegal
  | none => (s.beginTurn t rest).transact t.txn

theorem step_nil {s : State} (h : s.sched = []) : step s = .next (State.runEngine (s.burst + 1) s) := by
  unfold step; rw [h]

theorem step_cons {s : State} {t : Turn} {rest : List Turn} (h : s.sched = t :: rest) :
    step s = .next (turned s t rest).drive := by
  unfold step turned
  rw [h]
  dsimp only
  cases t.txn.ctrlWord with
  | none => rfl
  | some v =>
    dsimp only [command]
    cases decodeWord v with
    | error e => rfl
    | ok i => exact exec_eq i _

/-- A step answers a next state and nothing else. -/
theorem step_next (s : State) : ∃ t, step s = .next t := by
  cases h : s.sched with
  | nil => exact ⟨_, step_nil h⟩
  | cons t rest => exact ⟨_, step_cons h⟩

/-- What a host transaction, a command's issue and an engine step keep, a step keeps. -/
theorem step_keeps {P : State → Prop}
    (hturn : ∀ s t rest, P s → P (s.beginTurn t rest))
    (htxn : ∀ s x, P s → P (s.transact x))
    (hissue : ∀ s i, P s → P (issued i s))
    (hill : ∀ s, P s → P s.issueIllegal)
    (hstep : ∀ s t, P s → s.engineStep = some t → P t)
    {s t : State} (h : P s) (hs : step s = .next t) : P t := by
  cases hsch : s.sched with
  | nil =>
    rw [step_nil hsch] at hs
    cases hs
    exact runEngine_keeps hstep _ h
  | cons x rest =>
    rw [step_cons hsch] at hs
    cases hs
    refine runEngine_keeps hstep _ ?_
    unfold turned
    split
    · split
      · exact hissue _ _ (hturn _ _ _ h)
      · exact hill _ (hturn _ _ _ h)
    · exact htxn _ _ (hturn _ _ _ h)

end Sys2Proof.Machine
end

