-- ==== Sys2Proof/Laws/Num.lean ====
section
/-! SUPPORT. What the instance's arithmetic answers: the bounds every `NumTable` keeps, and what an exact one's composed
operations are. -/

namespace Sys2Proof

namespace NumTable

/-- An angle is in (−1/2, 1/2] turns under every arithmetic (00_scope.md R12). -/
theorem argTurn_range (num : NumTable) (z : Cx) : -1 / 2 < num.argTurn z ∧ num.argTurn z ≤ 1 / 2 := by
  have h : ∀ a, inTurn a = true → -1 / 2 < a ∧ a ≤ 1 / 2 := fun a ha => by simpa [inTurn] using ha
  unfold argTurn
  split
  · norm_num
  · split <;> split
    · exact h _ ‹_›
    · norm_num
    · exact h _ ‹_›
    · norm_num

/-- arg 0 = 0 (00_scope.md R12). -/
@[simp] theorem argTurn_zero (num : NumTable) : num.argTurn Cx.zero = 0 := by simp [argTurn]

/-- The arithmetic that lists nothing is exact. -/
theorem plain_exact : plain.Exact := ⟨fun _ _ => rfl, fun _ _ => rfl, fun _ _ => rfl, fun _ _ => rfl⟩

@[simp] theorem sum_nil (num : NumTable) : num.sum [] = 0 := rfl
@[simp] theorem sum_cons (num : NumTable) (x : Scalar) (xs : List Scalar) : num.sum (x :: xs) = xs.foldl num.add x := rfl

variable {num : NumTable}

theorem Exact.foldl_eq (h : num.Exact) (x : Scalar) (xs : List Scalar) : xs.foldl num.add x = x + xs.sum := by
  induction xs generalizing x with
  | nil => simp
  | cons y ys ih => simp [ih, h.add, add_assoc]

/-- A sum in order is the sum. -/
theorem Exact.sum_eq (h : num.Exact) (xs : List Scalar) : num.sum xs = xs.sum := by
  cases xs <;> simp [h.foldl_eq]

theorem Exact.frac_eq (h : num.Exact) (q : Scalar) : num.frac q = q - (q.floor : Scalar) := h.sub _ _

theorem Exact.wrapTurn_eq (h : num.Exact) (a : Scalar) : num.wrapTurn a = a - ((a - 1 / 2).ceil : Scalar) := h.sub _ _

theorem Exact.cxMul_eq (h : num.Exact) (a b : Cx) :
    num.cxMul a b = ⟨a.re * b.re - a.im * b.im, a.re * b.im + a.im * b.re⟩ := by
  simp [cxMul, h.add, h.sub, h.mul]

theorem Exact.cxScale_eq (h : num.Exact) (q : Scalar) (a : Cx) : num.cxScale q a = ⟨q * a.re, q * a.im⟩ := by
  simp [cxScale, h.mul]

theorem Exact.cxDiv_eq (h : num.Exact) (a : Cx) (q : Scalar) : num.cxDiv a q = ⟨a.re / q, a.im / q⟩ := by
  simp [cxDiv, h.div]

theorem Exact.normSq_eq (h : num.Exact) (a : Cx) : num.normSq a = a.re * a.re + a.im * a.im := by
  simp [normSq, h.add, h.mul]

theorem Exact.cxSum_eq (h : num.Exact) (zs : List Cx) : num.cxSum zs = ⟨(zs.map Cx.re).sum, (zs.map Cx.im).sum⟩ := by
  simp only [cxSum, h.sum_eq]

end NumTable

namespace Machine

/-- In exact arithmetic each resampler step moves the position by the ratio (40_resampler.md R175). -/
theorem rsPosition_eq {num : NumTable} (h : num.Exact) (ratio : Scalar) (m : Nat) (pos : Scalar) :
    rsPosition num ratio m pos = pos + (m : Scalar) * ratio := by
  induction m generalizing pos with
  | zero => simp [rsPosition]
  | succ m ih => rw [rsPosition, ih, h.add]; push_cast; ring

end Machine

end Sys2Proof
end

