-- ==== Sys2Proof/Laws/PerInstr.lean ====
section
/-! SUPPORT. What holds of every command as syntax, one lemma a constructor. -/

namespace Sys2Proof.Laws.Encoding

/-- The three fields of a well-formed command's word are 0, its opcode and its count (30_encoding.md R140, R141). -/
def Statement (i : Instr) : Prop :=
  i.wellFormed = true →
    rsvField (encode i) = 0#32 ∧ opField (encode i) = opcode i ∧ countField (encode i) = instrCount i

theorem opField_pack (op : BitVec 8) (n : BitVec 24) : opField ((0#32 ++ op) ++ n) = op := by
  unfold opField; ext i hi
  simp only [BitVec.getElem_extractLsb', BitVec.getLsbD_append]
  have h1 : ¬ (24 + i < 24) := by omega
  have h2 : 24 + i - 24 = i := by omega
  simp [h2, hi]

theorem rsvField_pack (op : BitVec 8) (n : BitVec 24) : rsvField ((0#32 ++ op) ++ n) = 0#32 := by
  unfold rsvField; ext i hi
  simp only [BitVec.getElem_extractLsb', BitVec.getLsbD_append]
  have h1 : ¬ (32 + i < 24) := by omega
  have h2 : ¬ (32 + i - 24 < 8) := by omega
  simp [h1, h2]

theorem countField_pack (op : BitVec 8) (n : BitVec 24) : countField ((0#32 ++ op) ++ n) = n.toNat := by
  unfold countField; congr 1; ext i hi
  rw [BitVec.getElem_extractLsb', Nat.zero_add, BitVec.getLsbD_append, if_pos hi, BitVec.getLsbD_eq_getElem hi]

/-- The fields of any packed word, and the count when it fits. -/
theorem fields (i : Instr) (h : instrCount i < countLimit) : Statement i := fun _ =>
  ⟨rsvField_pack _ _, opField_pack _ _, by
    unfold encode; rw [countField_pack, BitVec.toNat_ofNat]; exact Nat.mod_eq_of_lt h⟩

theorem nop : Statement .nop := fields _ (by decide)
theorem srst : Statement .srst := fields _ (by decide)
theorem calClear : Statement .calClear := fields _ (by decide)
theorem send : Statement .send := fields _ (by decide)
theorem recv : Statement .recv := fields _ (by decide)
theorem mod (n : Nat) : Statement (.mod n) := fun h => fields _ (of_decide_eq_true h) h
theorem demod (n : Nat) : Statement (.demod n) := fun h => fields _ (of_decide_eq_true h) h
theorem rsInit : Statement .rsInit := fields _ (by decide)
theorem rsRatio : Statement .rsRatio := fields _ (by decide)
theorem rsAdv (n : Nat) : Statement (.rsAdv n) := fun h => fields _ (of_decide_eq_true h) h

end Sys2Proof.Laws.Encoding
end

