-- ==== Sys2Proof/Tests/Slice0.lean ====
section
/-! SUPPORT. Tests of the model: ill-formed terms, command words written out bit by bit, the worked values of the spec, and
one witness for the hypotheses of every statement. Expected results are the spec's (its file and section in each comment). -/

namespace Sys2Proof.Machine.Test

/-! ### WellFormed -/

theorem test_count_too_large_refused :
    (Instr.mod (2 ^ 24)).wellFormed = false ∧ (Instr.demod (2 ^ 24)).wellFormed = false ∧
    (Instr.rsAdv (2 ^ 24)).wellFormed = false := by decide

theorem test_count_largest_accepted :
    (Instr.mod (2 ^ 24 - 1)).wellFormed = true ∧ (Instr.demod 0).wellFormed = true ∧
    (Instr.rsAdv (2 ^ 24 - 1)).wellFormed = true ∧ Instr.nop.wellFormed = true := by decide

/-! ### Command words bit by bit: rsv[63:32], op[31:24], n[23:0] (30_encoding.md R140, R143) -/

theorem test_decode_nop : (decodeWord
    0b0000000000000000000000000000000000000000_00000000_0000000000000000#64).toOption = some .nop := by decide
theorem test_decode_srst : (decodeWord
    0b00000000000000000000000000000000_00000001_000000000000000000000000#64).toOption = some .srst := by decide
theorem test_decode_calClear : (decodeWord
    0b00000000000000000000000000000000_00000010_000000000000000000000000#64).toOption = some .calClear := by decide
theorem test_decode_send : (decodeWord
    0b00000000000000000000000000000000_00010000_000000000000000000000000#64).toOption = some .send := by decide
theorem test_decode_recv : (decodeWord
    0b00000000000000000000000000000000_00010001_000000000000000000000000#64).toOption = some .recv := by decide
theorem test_decode_mod : (decodeWord
    0b00000000000000000000000000000000_00100000_100000000000000000000011#64).toOption = some (.mod 8388611) := by decide
theorem test_decode_demod : (decodeWord
    0b00000000000000000000000000000000_00100001_000000000000000000001100#64).toOption = some (.demod 12) := by decide
theorem test_decode_rsInit : (decodeWord
    0b00000000000000000000000000000000_00110000_000000000000000000000000#64).toOption = some .rsInit := by decide
theorem test_decode_rsRatio : (decodeWord
    0b00000000000000000000000000000000_00110001_000000000000000000000000#64).toOption = some .rsRatio := by decide
theorem test_decode_rsAdv : (decodeWord
    0b00000000000000000000000000000000_00110010_111111111111111111111111#64).toOption = some (.rsAdv 16777215) := by
  decide
/-- Each clause of 30_encoding.md R144. -/
theorem test_decode_illegal :
    (decodeWord 0b1_00000000_000000000000000000000000#64).toOption = none ∧
    (decodeWord 0b00000011_000000000000000000000000#64).toOption = none ∧
    (decodeWord 0b00000001_000000000000000000000001#64).toOption = none := by decide

/-! ### Small states -/

/-- Configuration A of 95_test_vectors.md, with σ = 32000. -/
def cfgA : Cfg :=
  { Cfg.init with
    n := 4, k := 1, b := 2, ltrain := 2, silStart := 4, silStop := 4, confirm := 2, searchLimit := 16
    thresh := 0x3FECCCCCCCCCCCCD#64, kp := 0x3FE0000000000000#64, ki := 0x3FB999999999999A#64
    pcmScale := 0x40DF400000000000#64
    bin := [(0, 1)]
    constRe := [(0, 0x3FF0000000000000#64), (1, 0xBFF0000000000000#64), (2, 0x3FF0000000000000#64),
                (3, 0xBFF0000000000000#64)]
    constIm := [(0, 0x3FF0000000000000#64), (1, 0x3FF0000000000000#64), (2, 0xBFF0000000000000#64),
                (3, 0xBFF0000000000000#64)]
    train := [(0, 2), (256, 1)] }

/-- The machine idle with configuration A. -/
def stA : State := { State.reset with cfg := cfgA }

/-- A binary64 sample unit. -/
def unit (x : Scalar) : SampleUnit := .real (bits64 x)

/-- A state with these samples in SMP_IN and end of stream. -/
def withSamples (s : State) (xs : List Scalar) : State :=
  { s with port := { s.port with smpIn := xs.map unit, smpInEos := true } }

/-- The next state of an outcome; the model has no other. -/
def nextOf (s : State) : Host.Outcome State Fault Refusal → State
  | .next t => t
  | _ => s

/-- The state a command leaves. -/
def ran (i : Instr) (s : State) : State := nextOf s (exec i s)

/-- A machine executing a command, with nothing fixed. -/
def running (c : Instr) (ph : Phase) (s : State) : State := { s with eng := .run c [] ph }

/-! ### Worked values -/

/-- 20_memory.md R113, R114: σ = 32000, x = 0.5 gives bytes 0x80, 0x3E; bytes 0x00, 0x80 give −1.024. -/
theorem test_pcm_examples :
    pcmPattern .plain 32000 (1 / 2) = 0x3E80#16 ∧ pcmValue .plain 32000 0x00#8 0x80#8 = -1024 / 1000 := by decide +kernel

/-- 00_scope.md R9, R12: an instance whose product 0.5 · 32000 and sum 1 + 1/3 are rounded is an instance, and its answers are
the ones used. -/
theorem test_num_rounds :
    let num := { NumTable.plain with products := [((1 / 2, 32000), 15999)], sums := [((1, 1 / 3), 4 / 3 - pow2 (-53))] }
    pcmPattern num 32000 (1 / 2) = 0x3E7F#16 ∧
    ({ stA with num := num, rs := { buf := [], pos := 1, ratio := 1 / 3 } } : State).rsStep.rs.pos = 4 / 3 - pow2 (-53) := by
  decide +kernel

/-- The configurations 45_control.md R346 to R349, R353 and R354 exclude, each beside a command that makes the check: K = 0,
K > K_MAX, bin 0, 2·b = N, equal bins, a phase that is no number, B = 0, B > B_MAX, equal points, a point that is infinite, the
pilot's index K, k_P > 1, k_I < 0, L = 0, L > L_MAX, CFG_TRAIN = 2^B, θ = 0, θ > 1, W = 0, C > S1, σ = 0 and σ < 0 with
PCM_EN = 1, a ratio of 0. -/
def badConfigs : List (Instr × Cfg) :=
  [(.mod 1, { cfgA with k := 0 }), (.mod 1, { cfgA with k := 257 }), (.demod 1, { cfgA with bin := [] }),
   (.send, { cfgA with bin := [(0, 2)] }), (.recv, { cfgA with n := 8, k := 2, bin := [(0, 1), (1, 1)] }),
   (.mod 1, { cfgA with phref := [(0, 0x7FF8000000000000#64)] })] ++
  [(.send, { cfgA with b := 0 }), (.demod 1, { cfgA with b := 9 }), (.send, { cfgA with constIm := [] }),
   (.recv, { cfgA with constIm := (0, 0x7FF0000000000000#64) :: cfgA.constIm.drop 1 }),
   (.recv, { cfgA with pilot := 1 }), (.demod 1, { cfgA with kp := 0x3FF0000000000001#64 }),
   (.demod 1, { cfgA with ki := 0x8000000000000001#64 })] ++
  [(.send, { cfgA with ltrain := 0 }), (.recv, { cfgA with ltrain := 4097 }), (.send, { cfgA with train := [(0, 4)] }),
   (.recv, { cfgA with thresh := 0 }), (.recv, { cfgA with thresh := 0x3FF0000000000001#64 }),
   (.recv, { cfgA with searchLimit := 0 }), (.recv, { cfgA with confirm := 5 })] ++
  [(.rsAdv 1, { cfgA with flags := 2, pcmScale := 0 }), 
   (.mod 1, { cfgA with flags := 2, pcmScale := 0xC0DF400000000000#64 }),
   (.rsInit, { cfgA with ratio0 := 0 }), (.rsRatio, { cfgA with ratio0 := 0 })]

theorem test_bad_configs : ∀ p ∈ badConfigs, let s := { stA with cfg := p.2 }
    ran p.1 s = { s with st := { Status.init with done := true, cause := .badConfig } } := by decide +kernel

/-- The values next to them that pass: K = K_MAX, 2·b = N − 1, CFG_TRAIN = 2^B − 1, θ = 1, W = 1, C = S1, k_P = 1, and σ = 0
with PCM_EN = 0; a CAL entry that is no number stops DEMOD alone. -/
theorem test_config_bounds_pass :
    ({ stA with par := { Params.sample with kMax := 1 } } : State).checks (.mod 1) = true ∧
    ({ stA with cfg := { cfgA with
        n := 3, train := [(0, 3)], thresh := 0x3FF0000000000000#64, searchLimit := 1, confirm := 4
        kp := 0x3FF0000000000000#64, pcmScale := 0 } } : State).checks .recv = true ∧
    ({ stA with cal := { re := [(0, 0x7FF8000000000000#64)], im := [] } } : State).checks (.demod 1) = false ∧
    ({ stA with cal := { re := [(0, 0x7FF8000000000000#64)], im := [] } } : State).checks .recv = true := by decide +kernel

/-- 41_modulator.md R208: Synth(1 + j) and Synth(1 − j). -/
theorem test_synth_configA :
    stA.synth [⟨1, 1⟩] = [1, -1, -1, 1] ∧ stA.synth [⟨1, -1⟩] = [1, 1, -1, -1] := by decide +kernel

/-- 43_frame_tx.md R250: payload [0xA5] is framed as [0x01, 0xA5, 0x00], COUNT = 64. -/
theorem test_framed_example :
    framed [0xA5#8] = [0x01#8, 0xA5#8, 0x00#8] ∧ (stA.frame [0xA5#8]).length = 64 := by decide +kernel

/-- 45_control.md R350: NOP after a RECV that ended TRUNCATED. -/
theorem test_nop_example :
    (ran .nop { stA with st := { Status.init with done := true, cause := .truncated, rx := .truncated } }).st =
      { Status.init with done := true, result := true, rx := .truncated } := by decide +kernel

/-- 45_control.md R351: SRST while RECV holds. -/
theorem test_srst_example :
    let s := ran .srst (ran .recv stA)
    s.statusWord = 0x0502#64 ∧ s.cfg = cfgA := by decide +kernel

/-- 45_control.md R352. -/
theorem test_calClear_example :
    (ran .calClear { stA with cal := { re := [(0, 0x4024000000000000#64)], im := [(0, 1#64)] } }).cal = Cal.init := by
  decide +kernel

/-- 40_resampler.md R170: CFG_RATIO0 = 0.5. -/
theorem test_rsInit_example :
    let s := ran .rsInit { stA with cfg := { cfgA with ratio0 := 0x3FE0000000000000#64 } }
    s.reg.rsRatio = 0x3FE0000000000000#64 ∧ s.reg.clkFreq = 0xBFE0000000000000#64 ∧ s.reg.rsPos = 0#64 := by
  decide +kernel

/-- 40_resampler.md R171: RS_RATIO leaves the position. -/
theorem test_rsRatio_example :
    let s := ran .rsRatio (ran (.rsAdv 3) { withSamples stA [0, 1, 2, 3] with
      cfg := { cfgA with ratio0 := 0x4000000000000000#64 } })
    s.rs.pos = 3 ∧ s.reg.rsRatio = 0x4000000000000000#64 := by decide +kernel

/-- 40_resampler.md R172: ratio 0.5 over 0, 1, 2, 3. -/
theorem test_rsAdv_example :
    let s := ran (.rsAdv 10) { withSamples stA [0, 1, 2, 3] with rs := { buf := [], pos := 0, ratio := 1 / 2 } }
    s.port.smpOut = [0, 1 / 2, 1, 3 / 2, 2, 5 / 2, 3].map unit ∧ s.reg.count = 7 ∧ s.rs.pos = 7 / 2 := by decide +kernel

/-- 41_modulator.md R200: PUSHC SYM_IN, (1,1), MOD 1. -/
theorem test_mod_example :
    let s := ran (.mod 1) { stA with port := { Ports.init with symIn := [symbolUnit ⟨1, 1⟩] } }
    s.port.smpOut = [1, -1, -1, 1].map unit ∧ s.reg.count = 1 := by decide +kernel

/-- 42_demodulator.md R220: two blocks and end of stream, DEMOD 3. -/
theorem test_demod_example :
    let s := ran (.demod 3) (withSamples stA [1, -1, -1, 1, -1, 1, 1, -1])
    s.port.symOut = [symbolUnit ⟨1, 1⟩, symbolUnit ⟨-1, -1⟩] ∧ s.reg.count = 2 ∧ s.rs.pos = 8 ∧ s.rs.ratio = 1 := by
  decide +kernel

/-- 43_frame_tx.md R250: the empty payload; S0 + P + 4 blocks of N + S1 samples. -/
theorem test_send_empty :
    let s := ran .send { stA with port := { Ports.init with byteInEos := true } }
    s.port.smpOut = (stA.frame []).map unit ∧ s.reg.count = 32 ∧ s.st.cause = .none := by decide +kernel

/-- 44_frame_rx.md R330: the empty payload's frame ends DONE at offset S0. -/
theorem test_recv_empty :
    let s := ran .recv (withSamples stA (stA.frame []))
    s.st.rx = .done ∧ s.st.result = true ∧ s.port.byteOut = [] ∧ s.reg.detOffset = 4 ∧ s.reg.rxBlocks = 4 := by
  decide +kernel

/-- 44_frame_rx.md R332: three samples short of S1 − C = 2 allowed, TRUNCATED. -/
theorem test_recv_truncated :
    (ran .recv (withSamples stA ((stA.frame []).take 29))).st =
      { Status.init with done := true, cause := .truncated, rx := .truncated } := by decide +kernel

/-- The opcode table's row numbering reaches `step` (30_encoding.md R150: CMD RS_INIT). -/
theorem test_withFetchWord_runs :
    (nextOf stA (step (State.reset.withFetchWord 64 0x30000000))).st =
      { Status.init with done := true, result := true } := by decide +kernel

/-! ### Witnesses: states and operands that meet the hypotheses of each statement -/

theorem reset_mirrors : State.reset.Mirrors := ⟨by decide +kernel, by decide +kernel, .inl (by decide +kernel)⟩
theorem reset_tables : State.reset.TablesCanonical :=
  ⟨by decide, by decide, by decide, by decide, by decide, by decide, by decide⟩
theorem reset_ports : State.reset.PortsBounded :=
  ⟨by decide, by decide, by decide, by decide, by decide, by decide, by decide⟩
theorem reset_status : State.reset.StatusConsistent := .inl (by decide)
theorem reset_engine : State.reset.EngineConsistent := rfl
theorem reset_codec : State.reset.CodecConsistent := ⟨by decide, fun _ _ _ h => (by cases h)⟩
theorem reset_ratio : State.reset.RatioPositive :=
  ⟨NumTable.plain_exact, reset_engine, fun _ _ _ h => (by cases h), by decide +kernel⟩

theorem stA_tables : stA.TablesCanonical :=
  ⟨by decide +kernel, by decide +kernel, by decide +kernel, by decide +kernel, by decide +kernel, by decide +kernel,
    by decide +kernel⟩

theorem witness_DecodeInvertsEncode :
    (Instr.mod (2 ^ 24 - 1)).wellFormed = true ∧ decodeWord 0x32FFFFFF#64 = .ok (.rsAdv 16777215) := by decide

/-- A pending CTRL write of a legal and of an illegal word, a pending transaction that is no CTRL write, a row's word, an
empty schedule, and engines that take no step, idle and holding. -/
theorem witness_StepRunsDecodedCommand :
    (State.reset.withCommand 0x20000002#64).sched = { txn := .write ctrlIndex 0x20000002#64, burst := 1000000 } :: [] ∧
    decodeWord 0x20000002#64 = .ok (.mod 2) ∧ decodeWord 0x20000002FF#64 = .error .reservedBits ∧
    (∀ v, HostTxn.write 0x10#32 5#64 ≠ .write ctrlIndex v) ∧ decodeTableWord 64 0x11000000 = some .recv ∧
    State.reset.sched = [] ∧ State.reset.busy = false ∧ (running (.rsAdv 1) (.adv 1) stA).engineStep = none :=
  ⟨rfl, by decide, by decide, fun _ h => by injection h with h; exact absurd h (by decide), by decide, rfl, rfl,
    by decide +kernel⟩

theorem witness_ResetValues : State.reset = State.reset ∧ stA.transact .reset = stA.transact .reset := ⟨rfl, rfl⟩

/-- The largest and the smallest table entries, whose indices the map gives. -/
theorem witness_RegisterMapRoundTrip :
    Params.sample.ok = true ∧ (Reg.cfgTrain 4095 255).implemented Params.sample = true ∧
    regAt Params.sample 0x001FFFFF#32 = some (.cfgTrain 4095 255) ∧ regAt Params.sample 0x100#32 = some (.cfgBin 0) ∧
    regAt Params.sample 0x3FF#32 = some (.cfgConstRe 255) := by decide +kernel

/-- An instance with small tables. -/
def small : Params := { Params.sample with kMax := 2, bMax := 1, lMax := 2 }

/-- The first index past a table is reserved, and so is one in a gap; the last of the table is not. -/
theorem witness_ReadsAndReservedIndices :
    small.ok = true ∧ (∀ r : Reg, r.implemented small = true → r.index ≠ 0x102#32) ∧
    (∀ r : Reg, r.implemented small = true → r.index ≠ 0x0C#32) ∧ (Reg.cfgBin 1).implemented small = true := by
  refine ⟨by decide, ?_, ?_, by decide⟩ <;> intro r hr h <;> have h := congrArg BitVec.toNat h <;>
    cases r <;> simp [Reg.index, Reg.implemented, small, Params.sample] at h hr <;> omega

/-- A u32, an f64 and a table register idle; the same busy; a read-only one. -/
theorem witness_RegisterWrites :
    stA.par.ok = true ∧ stA.TablesCanonical ∧ (Reg.cfgTrain 4095 255).implemented stA.par = true ∧
    (Reg.cfgTrain 4095 255).access = .config ∧ stA.busy = false ∧
    (running .send .data stA).busy = true ∧ (running .send .data stA).TablesCanonical ∧ Reg.count.access = .readOnly :=
  ⟨by decide, stA_tables, by decide, rfl, rfl, rfl,
    ⟨stA_tables.bin, stA_tables.phref, stA_tables.constRe, stA_tables.constIm, stA_tables.train, stA_tables.calRe,
      stA_tables.calIm⟩, rfl⟩

/-- A state with a unit in every port. -/
def filled : State :=
  { stA with port := { Ports.init with
      byteIn := [1], byteOut := [2], smpOut := [unit 1], smpIn := [unit 2, .pcm 7], symIn := [symbolUnit ⟨1, 1⟩],
      symOut := [symbolUnit ⟨1, 0⟩], dump := [unit 3] } }

theorem witness_HostPortTransactions :
    filled.port.byteOut = 2#8 :: [] ∧ filled.port.smpOut = unit 1 :: [] ∧ filled.port.symOut = symbolUnit ⟨1, 0⟩ :: [] ∧
    filled.port.dump = unit 3 :: [] ∧ stA.port.byteOut = [] ∧ stA.port.smpOut = [] ∧ stA.port.symOut = [] ∧
    stA.port.dump = [] := ⟨rfl, rfl, rfl, rfl, rfl, rfl, rfl, rfl⟩

/-- DUMP_EN 0, DUMP_EN 1 with room, and DUMP_EN 1 with DUMP full. -/
theorem witness_EnginePortActions :
    filled.port.byteIn = 1#8 :: [] ∧ stA.port.byteIn = [] ∧ filled.port.symIn = symbolUnit ⟨1, 1⟩ :: [] ∧
    stA.port.symIn = [] ∧ stA.port.smpIn = [] ∧ filled.port.smpIn = unit 2 :: [.pcm 7] ∧
    filled.cfg.flags.getLsbD 0 = false ∧ ({ cfgA with flags := 1 } : Cfg).flags.getLsbD 0 = true ∧
    filled.port.dump.length < filled.par.depth.dump ∧
    ({ Params.sample.depth with dump := 1 } : Depths).dump ≤ filled.port.dump.length := by decide +kernel

/-- A binary64 unit with PCM_EN = 0; a byte with PCM_EN = 1, with and without a low byte pending. -/
theorem witness_SampleDecoding :
    let s := { stA with port := { Ports.init with smpIn := [.pcm 0x80] }, cfg := { cfgA with flags := 2 } }
    filled.cfg.flags.getLsbD 1 = false ∧
    (match filled.popSmp false with | .got u _ => u = .real (bits64 2) | _ => False) ∧
    s.cfg.flags.getLsbD 1 = true ∧ (match s.popSmp true with | .got u _ => u = .pcm 0x80 | _ => False) ∧
    s.pcmLo = none ∧ { s with pcmLo := some 0x00#8 }.pcmLo = some 0x00#8 :=
  ⟨by decide, rfl, by decide, rfl, rfl, rfl⟩

theorem witness_PcmRoundTrip :
    NumTable.plain.Exact ∧ (0 : Scalar) < 32000 ∧ |(32767 / 32000 : Scalar) * 32000| ≤ 32767 := by
  refine ⟨NumTable.plain_exact, ?_, ?_⟩ <;> norm_num

/-- Both edges of the range, and an exact half. -/
theorem witness_PcmEncodeSaturates :
    let s := { stA with cfg := { cfgA with flags := 2 } }
    let p := fun x : Scalar => s.num.mul x (realOf s.cfg.pcmScale)
    s.cfg.flags.getLsbD 1 = true ∧ 32767 ≤ p (32767 / 32000) ∧ p (-32768 / 32000) ≤ -32768 ∧
    -32768 ≤ p (1 / 64000) ∧ p (1 / 64000) ≤ 32767 ∧ pcmPattern s.num s.sigma (1 / 64000) = 0#16 := by decide +kernel

theorem witness_BitOrders :
    [true, false, true, false, false, true, false, true].length = 8 ∧ 1 < 2 ∧ 0 < 3 ∧
    (bitBlocks 3 [true, false, true, true]).flatten = [true, false, true, true] ++ List.replicate 2 false := by decide

/-- The smallest positive pattern and the largest finite one. -/
theorem witness_Binary64Exact :
    f64 1#64 = some (pow2 (-1074)) ∧ pow2 (-1074) ≠ 0 ∧ bits64 (pow2 (-1074)) = 1#64 ∧
    (f64 0x7FEFFFFFFFFFFFFF#64).isSome = true ∧ f64 0x7FF0000000000000#64 = none := by decide +kernel

/-- A tie between two patterns: 1 + 2^-53. -/
theorem witness_Binary64Nearest :
    |(1 + pow2 (-53))| < pow2 1024 - pow2 970 ∧ f64 0x3FF0000000000001#64 = some (1 + pow2 (-52)) ∧
    bits64 (1 + pow2 (-53)) = 0x3FF0000000000000#64 := by decide +kernel

theorem witness_IllegalWordEnds : stA.busy = false ∧ decodeWord 0x10000001#64 = .error .countOnUncounted := by decide
theorem witness_BusyRejects :
    (running .send .data stA).busy = true ∧ (0x01000001#64 : Word) ≠ 0x0000000001000000#64 := by decide
/-- The reset configuration (K = 0), and PCM_EN = 1 with σ = 0; `badConfigs` above has the rest. -/
theorem witness_FailedCheckEnds :
    State.reset.busy = false ∧ ¬ State.reset.CheckRules (.mod 1) ∧ stA.CheckRules (.rsAdv 1) ∧
    (let s := { stA with cfg := { cfgA with flags := 2, pcmScale := 0 } }
     s.busy = false ∧ ¬ s.CheckRules (.rsAdv 1)) :=
  ⟨rfl, fun h => absurd h.1.1 (by decide +kernel), fun h => absurd h (by decide +kernel), rfl, fun h => by
    obtain ⟨x, hx, h0⟩ := h (by decide +kernel)
    have h1 : f64 (0#64) = some x := hx
    rw [show f64 (0#64) = some 0 by decide +kernel] at h1
    injection h1 with h1
    exact absurd h0 (by rw [← h1]; decide +kernel)⟩

/-- A step that ends a command, and one that does not. -/
theorem witness_EndIsAtomic :
    (running (.rsAdv 1) (.adv 0) stA).engineStep = some (stA.endWith .none) ∧
    (running .send (.lead 0) stA).engineStep = some (running .send (.preamble 0) stA) := by decide +kernel

theorem witness_NopEffect : stA.busy = false ∧ (running .send .data stA).busy = true := ⟨rfl, rfl⟩
theorem witness_CalClearEffect : stA.busy = false ∧ stA.TablesCanonical := ⟨rfl, stA_tables⟩

/-- A ratio that is accepted, and the kinds that are not: 0, negative, infinite, not a number. -/
theorem witness_RsInitAndRsRatioEffects :
    stA.busy = false ∧ f64 stA.cfg.ratio0 = some 1 ∧ (0 : Scalar) < 1 ∧ f64 0#64 = some 0 ∧
    f64 0xBFF0000000000000#64 = some (-1) ∧ f64 0x7FF0000000000000#64 = none ∧ f64 0x7FF8000000000000#64 = none := by
  decide +kernel
theorem witness_InterpolationIsPiecewiseLinear :
    NumTable.plain.Exact ∧ ((-1 : Int) : Scalar) ≤ -1 / 2 ∧ (-1 / 2 : Scalar) ≤ ((-1 : Int) : Scalar) + 1 := by
  refine ⟨NumTable.plain_exact, ?_, ?_⟩ <;> norm_num

theorem stA_exact : stA.num.Exact := NumTable.plain_exact
theorem stA_mirrors : stA.Mirrors := ⟨by decide +kernel, by decide +kernel, .inl (by decide +kernel)⟩

/-- n = L. -/
theorem witness_RsAdvIdentity :
    let s := withSamples stA [1, 2, 3]
    s.num.Exact ∧ s.busy = false ∧ s.Mirrors ∧ s.cfg.flags.getLsbD 1 = false ∧ s.rs = { buf := [], pos := 0, ratio := 1 } ∧
    s.port.smpInEos = true ∧ s.port.smpIn.length ≤ 3 ∧
    s.port.smpOut.length + s.port.smpIn.length ≤ s.par.depth.smpOut :=
  ⟨stA_exact, rfl, ⟨stA_mirrors.pos, stA_mirrors.ratio, stA_mirrors.freq⟩, rfl, by decide +kernel, rfl, by decide,
    by decide⟩

/-- With end of stream and too few samples, and without it and enough. -/
theorem witness_RsAdvComputes :
    let s := withSamples stA [1, 2, 3]
    let u := { s with port := { s.port with smpInEos := false } }
    s.busy = false ∧ s.Mirrors ∧ s.checks (.rsAdv 5) = true ∧ s.port.smpInEos = true ∧
    s.num.Exact ∧ u.checks (.rsAdv 2) = true ∧ u.Mirrors ∧ (u.rsAhead 2).length = 2 ∧
    u.port.smpOut.length + ((u.rsAhead 2).flatMap u.sampleUnits).length ≤
      u.par.depth.smpOut :=
  ⟨rfl, ⟨stA_mirrors.pos, stA_mirrors.ratio, stA_mirrors.freq⟩, by decide +kernel, rfl, stA_exact, by decide +kernel,
    ⟨stA_mirrors.pos, stA_mirrors.ratio, stA_mirrors.freq⟩, by decide +kernel, by decide +kernel⟩

theorem witness_ModComputes :
    let s := { stA with port := { Ports.init with symIn := [symbolUnit ⟨1, 1⟩], symInEos := true } }
    s.busy = false ∧ s.checks (.mod 3) = true ∧ s.port.symInEos = true ∧
    s.port.smpOut.length + ((s.modulate (s.symbolBlocks 1)).flatMap s.sampleUnits).length ≤ s.par.depth.smpOut ∧
    min 3 (s.port.symIn.length / s.nCar) = 1 ∧ 1 * s.nCar ≤ s.port.symIn.length := by decide +kernel

theorem witness_DemodComputes :
    let s := withSamples stA [1, -1, -1, 1, -1]
    let q := State.demodBlocks { s with rs := { s.rs with buf := s.allSamples } } 2
    s.busy = false ∧ s.Mirrors ∧ s.checks (.demod 2) = true ∧ s.port.smpInEos = true ∧ q.1.length = 1 ∧
    s.port.symOut.length + (q.1.flatten.map symbolUnit).length ≤ s.par.depth.symOut :=
  ⟨rfl, ⟨stA_mirrors.pos, stA_mirrors.ratio, stA_mirrors.freq⟩, by decide +kernel, rfl, by decide +kernel,
    by decide +kernel⟩

theorem witness_ProjInvertsSynth :
    stA.num.Exact ∧ stA.orthogonal = true ∧ [(⟨1 / 3, 5⟩ : Cx)].length = stA.nCar :=
  ⟨stA_exact, by decide +kernel, by decide +kernel⟩
theorem witness_SliceNearest :
    stA.num.Exact ∧ stA.constellationCheck = true ∧ 3 < 2 ^ stA.nBit ∧ stA.slice ⟨0, 0⟩ = 0 ∧ 0 < stA.slice ⟨-2, -2⟩ :=
  ⟨stA_exact, by decide +kernel, by decide +kernel, by decide +kernel, by decide +kernel⟩
theorem witness_TrackUpdateAndBounds :
    stA.num.Exact ∧ stA.carrierCheck = true ∧ stA.demodCheck = true ∧ 0 < stA.rs.ratio ∧ (⟨1, 2⟩ : Cx) ≠ Cx.zero ∧
    stA.point (stA.slice ⟨1, 2⟩) ≠ Cx.zero :=
  ⟨stA_exact, by decide +kernel, by decide +kernel, by decide +kernel, by decide +kernel, by decide +kernel⟩

theorem witness_SendEmitsFrame :
    let s := { stA with port := { Ports.init with byteIn := [0xA5], byteInEos := true } }
    s.busy = false ∧ s.checks .send = true ∧ s.port.byteInEos = true ∧
    s.port.smpOut.length + ((s.frame s.port.byteIn).flatMap s.sampleUnits).length ≤ s.par.depth.smpOut := by
  decide +kernel
theorem witness_FrameLength : 0 < stA.blockBits := by decide
theorem witness_RecvAcceptance :
    let s := { stA with burst := 0 }
    s.busy = false ∧ s.checks .recv = true ∧ s.burst = 0 := by decide +kernel

/-- One sample short of the skip and one preamble. -/
theorem witness_RecvNoCarrierOnShortInput :
    let s := { withSamples stA [1, 2, 3, 4, 5, 6, 7, 8, 9] with cfg := { cfgA with skip := 2, flags := 1 } }
    s.busy = false ∧ s.checks .recv = true ∧ s.port.smpInEos = true ∧ s.dumpEn = true ∧
    s.port.dump.length + s.port.smpIn.length ≤ s.par.depth.dump ∧
    (sampleStream s.num s.pcmEn s.sigma s.pcmLo s.port.smpIn).length < s.cfg.skip.toNat + s.nPre := by decide +kernel

/-- A RECV at its first search step. -/
def searching (xs : List Scalar) : State :=
  { running .recv .search (withSamples stA xs) with st := { Status.init with rx := .searching } }

/-- The empty payload's frame, found at offset 4, its first crossing; silence, where nothing is found before it ends; and longer
silence, where W = 16 is exhausted with units left. -/
theorem witness_SearchFindsPeak :
    let s := searching (stA.frame [])
    let u := searching (silence 9)
    s.eng = .run .recv [] .search ∧ s.checks .recv = true ∧ s.rx.d = 0 ∧ s.rs.buf = [] ∧ s.port.smpInEos = true ∧
    s.dumpEn = false ∧ 4 < s.searchLimit ∧ 4 + s.nPre ≤ s.allSamples.length ∧ s.theta ≤ s.corrOver s.allSamples 4 ∧
    (∀ d < 4, s.corrOver s.allSamples d < s.theta) ∧ u.eng = .run .recv [] .search ∧ u.checks .recv = true ∧
    (∀ d < u.searchLimit, d + u.nPre ≤ u.allSamples.length → u.corrOver u.allSamples d < u.theta) ∧
    (let x := searching (silence 40)
     (∀ d < x.searchLimit, d + x.nPre ≤ x.allSamples.length → x.corrOver x.allSamples d < x.theta) ∧
     x.searchLimit + x.nPre < x.port.smpIn.length) := by decide +kernel

theorem witness_GainExact :
    let a : Cx := ⟨0, 2⟩
    stA.num.Exact ∧ a ≠ Cx.zero ∧
    (∀ t < stA.nTrain, cxAt ((List.range 2).map fun t => [stA.num.cxMul a (stA.trainSymbol t 0)]) t 0 =
      stA.num.cxMul a (stA.trainSymbol t 0)) ∧ (∃ t < stA.nTrain, stA.trainSymbol t 0 ≠ Cx.zero) :=
  ⟨stA_exact, by decide +kernel, by decide +kernel, 0, by decide +kernel, by decide +kernel⟩

/-- Three training blocks whose pilot turns by a quarter each: e_0 = 0, e_1 = 1/4, e_2 = 1/2; and one training block. -/
theorem witness_DriftEstimateAndBounds :
    let s := { stA with cfg := { cfgA with ltrain := 3 } }
    let rs : List (List Cx) := (List.range 3).map fun t =>
      [s.num.cxMul (s.trainSymbol t 0) ([Cx.one, ⟨0, 1⟩, ⟨-1, 0⟩][t]?.getD Cx.zero)]
    s.num.Exact ∧ s.carrierCheck = true ∧ s.demodCheck = true ∧ s.trainingCheck = true ∧ |(1 / 4 : Scalar)| < 1 / 2 ∧
    (∀ t : Nat, t < s.nTrain → ∃ m : Int, s.trainError rs t = s.trainError rs 0 + (t : Scalar) * (1 / 4) + (m : Scalar)) ∧
    2 ≤ s.nTrain ∧ (∀ t < 3, cxAt rs t s.pilot ≠ Cx.zero ∧ s.trainSymbol t s.pilot ≠ Cx.zero) ∧
    (let u := { stA with cfg := { cfgA with ltrain := 1 } }
     u.carrierCheck = true ∧ u.demodCheck = true ∧ u.trainingCheck = true ∧ u.nTrain = 1) := by
  refine ⟨stA_exact, by decide +kernel, by decide +kernel, by decide +kernel, by norm_num [abs_lt], ?_, by decide +kernel,
    by decide +kernel, by decide +kernel⟩
  intro t ht
  exact ⟨0, by revert t; decide +kernel⟩
theorem witness_CalibrateSetsClock :
    let s := { running .recv .calibrate stA with rs := { Resampler.init with buf := stA.preamble } }
    s.eng = .run .recv [] .calibrate ∧ s.TablesCanonical ∧ s.num.Exact ∧
    s.initialRatio ((List.range s.nTrain).map s.rxTraining) = 1 :=
  ⟨rfl, ⟨stA_tables.bin, stA_tables.phref, stA_tables.constRe, stA_tables.constIm, stA_tables.train, stA_tables.calRe,
      stA_tables.calIm⟩, stA_exact, by decide +kernel⟩

/-- A RECV about to read a data block. -/
def receiving (xs : List Scalar) : State :=
  { running .recv (.receive []) (withSamples stA xs) with
    st := { Status.init with rx := .receiving }, rx := { RxCodec.init with gains := [Cx.one] } }

/-- A whole block, and a short one. -/
theorem witness_ReceiveBlock :
    let s := receiving [1, -1, -1, 1]
    let u := receiving [1, -1, -1]
    s.eng = .run .recv [] (.receive []) ∧ s.st.rx = .receiving ∧ s.checks .recv = true ∧ s.rx.sentinel = false ∧
    s.dumpEn = false ∧ (s.rsAhead s.nSym).length = s.nSym ∧
    s.port.byteOut.length + (s.rx.feed (s.slicedBits (s.calibrated s.rx.gains
      (s.rsAhead s.nSym)))).2.length ≤ s.par.depth.byteOut ∧
    u.checks .recv = true ∧ (u.rsAhead u.nSym).length < u.nSym ∧ u.port.smpInEos = true := by decide +kernel

/-- 44_frame_rx.md R312 with 42_demodulator.md R232, on an input on which they come to no end (log entry 16): points Q(0) = 2 and
Q(1) = 1, L = 1, k_P = 0, k_I = 1; the preamble 2, 0, −2, 0, then a ramp of twelve samples and end of stream. A window on the ramp
gives a pilot in the direction −1 + j, nearest to Q(1), e = 3/8 of a turn, so every bit is 1, the ratio becomes 5/8 of itself,
and the position, 4 before the first block, stays below 4 + 4 / (1 − 5/8) < 15: after 16 blocks all is as after one. -/
theorem test_ratio_shrinks :
    let s := { withSamples stA [2, 0, -2, 0, 0, 1, 2, 3, 4, 5, 6, 7, 8, 9, 10, 11] with
      burst := 153
      cfg := { cfgA with
        b := 1, ltrain := 1, train := [], constRe := [(0, 0x4000000000000000#64), (1, 0x3FF0000000000000#64)], constIm := []
        kp := 0, ki := 0x3FF0000000000000#64 } }
    let t := ran .recv s
    t.eng = .run .recv [] (.receive []) ∧ t.reg.rxBlocks = 16 ∧ t.rs.ratio = (5 / 8) ^ 16 ∧
    t.rs.pos = 4 + 4 * (1 - (5 / 8) ^ 16) / (1 - 5 / 8) ∧ t.port.byteOut = [255] := by decide +kernel

/-- C samples present, and one missing. -/
theorem witness_ConfirmingEnds :
    let s := running .recv (.confirm 2) (withSamples stA [0, 0])
    let u := running .recv (.confirm 2) (withSamples stA [0])
    s.eng = .run .recv [] (.confirm 2) ∧ s.dumpEn = false ∧
    (s.rsAhead 2).length = 2 ∧
    (u.rsAhead 2).length ≠ 2 ∧ u.port.smpInEos = true := by decide +kernel

/-- The default arithmetic's angle of a positive real is 0. -/
theorem argTurn_positive (x : Scalar) (h : 0 < x) : NumTable.plain.argTurn ⟨x, 0⟩ = 0 := by
  have hz : (⟨x, 0⟩ : Cx) ≠ Cx.zero := fun e => absurd (congrArg Cx.re e) (ne_of_gt h)
  have hd : turnDefault ⟨x, 0⟩ = 0 := by simp [turnDefault, not_lt.mpr (le_of_lt h)]
  unfold NumTable.argTurn
  rw [if_neg hz]
  simp only [NumTable.plain, tableAnswer, hd]
  rw [if_pos (by decide +kernel)]

/-- What the two statements about a whole frame ask of the instance's arithmetic holds of the default one. -/
theorem stA_arithmetic :
    stA.num.Exact ∧ stA.orthogonal = true ∧ (∀ x : Scalar, 0 < x → stA.num.argTurn ⟨x, 0⟩ = 0) ∧
    stA.num.energy stA.preamble ≠ 0 ∧
    stA.num.sqrt (stA.num.mul (stA.num.energy stA.preamble) (stA.num.energy stA.preamble)) =
      stA.num.energy stA.preamble :=
  ⟨stA_exact, by decide +kernel, argTurn_positive, by decide +kernel, by decide +kernel⟩

/-- The empty payload's frame, whole. The arithmetic's premises are `stA_arithmetic`. -/
theorem witness_RecvRoundTrip :
    let s := withSamples stA (stA.frame [])
    let y := (s.frame []).drop s.cfg.skip.toNat
    s.busy = false ∧ s.checks .recv = true ∧ s.port.smpInEos = true ∧
    sampleStream s.num s.pcmEn s.sigma s.pcmLo s.port.smpIn = s.frame [] ∧ s.cfg.skip.toNat ≤ s.cfg.silStart.toNat ∧
    s.cfg.silStart.toNat - s.cfg.skip.toNat < s.searchLimit ∧ s.port.byteOut.length + 0 ≤ s.par.depth.byteOut ∧
    s.dumpEn = false ∧ s.num = stA.num ∧ s.preamble = stA.preamble ∧ s.orthogonal = true ∧
    (∀ o, o < y.length → o + s.nPre ≤ y.length → s.corrOver y o ≤ 1) ∧ (∀ o, o < 4 → s.corrOver y o < 1) := by
  decide +kernel

/-- The frame of one byte with its last c samples missing: c = 2 = S1 − C, where it still ends DONE; c = 3, the first that does
not; c = S1 = 4, all the silence; c = S1 + 1 = 5, the first that cuts a data block; and c = 40, with no whole byte left of the
payload. The arithmetic's premises are `stA_arithmetic`. -/
theorem witness_RecvDetectsTruncation : ∀ c ∈ [2, 3, 4, 5, 40],
    let d := [0xA5#8]
    let s := withSamples stA ((stA.frame d).take (64 - c))
    let y := ((s.frame d).take ((s.frame d).length - c)).drop s.cfg.skip.toNat
    s.busy = false ∧ s.checks .recv = true ∧ s.port.smpInEos = true ∧
    c ≤ s.cfg.silStop.toNat + (s.dataBlocks d).length * s.nSym ∧
    sampleStream s.num s.pcmEn s.sigma s.pcmLo s.port.smpIn = (s.frame d).take ((s.frame d).length - c) ∧
    s.cfg.skip.toNat ≤ s.cfg.silStart.toNat ∧ s.cfg.silStart.toNat - s.cfg.skip.toNat < s.searchLimit ∧
    s.port.byteOut.length + d.length ≤ s.par.depth.byteOut ∧ s.dumpEn = false ∧ s.num = stA.num ∧
    s.preamble = stA.preamble ∧ s.orthogonal = true ∧
    (∀ o, o < y.length → o + s.nPre ≤ y.length → s.corrOver y o ≤ 1) ∧ (∀ o, o < 4 → s.corrOver y o < 1) := by
  decide +kernel

/-- 44_frame_rx.md R332: of the same frame cut by 5 samples (11 whole blocks of 12) the payload byte is in BYTE_OUT; cut by
37 (3 whole blocks, not yet the byte) nothing is. -/
theorem test_recv_cut :
    (ran .recv (withSamples stA ((stA.frame [0xA5#8]).take 59))).port.byteOut = [0xA5#8] ∧
    (ran .recv (withSamples stA ((stA.frame [0xA5#8]).take 27))).port.byteOut = [] := by decide +kernel

/-- The checks of a search hold under a configuration that passes them. -/
theorem searching_checks (cfg : Cfg) (h : ({ stA with cfg := cfg } : State).checks .recv = true) (xs : List Scalar) :
    ({ searching xs with cfg := cfg } : State).ChecksHold := fun _ _ _ e => by cases e; exact h

/-- A RECV in its search, its clock tracked with k_I > 0, and a SEND in its lead silence and at its clean-up. -/
theorem witness_EngineEndsOrHolds :
    (let s := searching [1, 2]
     s.eng = .run .recv [] .search ∧ s.EngineConsistent ∧ s.CodecConsistent ∧ s.ChecksHold) ∧
    (let s := running .send (.lead 1) stA
     s.eng = .run .send [] (.lead 1) ∧ s.EngineConsistent ∧ s.CodecConsistent ∧ s.ChecksHold) ∧
    ({ stA with eng := .run .send [.clearByteIn, .finish .none] .closing } : State).EngineConsistent :=
  ⟨⟨rfl, ⟨rfl, rfl⟩, ⟨by decide, fun _ _ _ h hp => by cases h; cases hp⟩, searching_checks cfgA (by decide +kernel) _⟩,
    ⟨rfl, ⟨rfl, .inl ⟨rfl, rfl⟩⟩, ⟨by decide, fun _ _ _ h hp => by cases h; cases hp⟩,
      fun _ _ _ e => by cases e; decide +kernel⟩, rfl, .inr ⟨rfl, rfl, .inl rfl⟩⟩

/-- The rest of a RECV whose confirmation is read changes no ratio, whatever the room. -/
theorem confirmed_ratio (d : Depths) (k : Nat) :
    (1 : Scalar) ≤ (State.runEngine k { running .recv (.confirm 0) (withSamples stA []) with
      st := { Status.init with rx := .confirming }, par := { stA.par with depth := d } }).rs.ratio := by
  rcases k with _ | _ | _ | _ | k
  all_goals first | exact le_refl (1 : Scalar) | skip
  have h : State.runEngine (k + 4) { running .recv (.confirm 0) (withSamples stA []) with
      st := { Status.init with rx := .confirming }, par := { stA.par with depth := d } } =
    State.runEngine k ({ stA with st := { Status.init with rx := .done }, par := { stA.par with depth := d } }.endWith .none) :=
    rfl
  rw [h, runEngine_idle rfl]
  exact le_refl (1 : Scalar)

/-- A SEND; a RECV with k_I = 0; and one with k_I > 0, the ratio of whose run is bounded below. -/
theorem witness_CommandEndsOnFiniteInput :
    (let s := { running .send .data stA with port := { Ports.init with byteInEos := true } }
     s.eng = .run .send [] .data ∧ s.EngineConsistent ∧ s.InputMarked .send ∧ s.RoomFor s.par.depth 65536) ∧
    (let s := { searching (stA.frame []) with cfg := { cfgA with ki := 0 } }
     s.eng = .run .recv [] .search ∧ s.EngineConsistent ∧ s.InputMarked .recv ∧ s.RatioPositive ∧ f64 s.cfg.ki = some 0) ∧
    (let s := { running .recv (.confirm 0) (withSamples stA []) with st := { Status.init with rx := .confirming } }
     s.eng = .run .recv [] (.confirm 0) ∧ s.EngineConsistent ∧ s.InputMarked .recv ∧ s.RatioPositive ∧
     ∃ ρ : Scalar, 0 < ρ ∧ ∀ (d : Depths) (k : Nat),
       ρ ≤ (State.runEngine k { s with par := { s.par with depth := d } }).rs.ratio) :=
  ⟨⟨rfl, ⟨rfl, .inl ⟨rfl, rfl⟩⟩, rfl, ⟨by decide, by decide, by decide, by decide⟩⟩,
    ⟨rfl, ⟨rfl, rfl⟩, rfl, ⟨stA_exact, ⟨rfl, rfl⟩, searching_checks _ (by decide +kernel) _, by decide +kernel⟩,
      by decide +kernel⟩,
    rfl, .inl ⟨rfl, rfl⟩, rfl,
    ⟨stA_exact, .inl ⟨rfl, rfl⟩, fun _ _ _ e => by cases e; decide +kernel, by decide +kernel⟩,
    1, by decide +kernel, confirmed_ratio⟩

/-- A RECV in its search, and another command. -/
theorem witness_DumpIsInputPrefix :
    (searching [1, 2]).EngineConsistent ∧ (searching [1, 2]).eng = .run .recv [] .search ∧
    (running .send .data stA).EngineConsistent ∧ (∀ todo ph, (running .send .data stA).eng ≠ .run .recv todo ph) :=
  ⟨⟨rfl, rfl⟩, rfl, ⟨rfl, .inl ⟨rfl, rfl⟩⟩, fun _ _ h => (by cases h)⟩

theorem witness_StepKeepsMirrors :
    State.reset.Mirrors ∧ State.reset.num.Exact ∧ step State.reset = .next State.reset :=
  ⟨reset_mirrors, NumTable.plain_exact, rfl⟩
theorem witness_StepKeepsTablesAndPorts :
    State.reset.TablesCanonical ∧ State.reset.PortsBounded ∧ step State.reset = .next State.reset :=
  ⟨reset_tables, reset_ports, rfl⟩
/-- A machine at rest after reset, one executing with no reset to come, and one whose next turn writes a command. -/
theorem witness_StepKeepsStatus :
    State.reset.StatusConsistent ∧ step State.reset = .next State.reset ∧
    (let s := running .send .data stA
     s.StatusConsistent ∧ (∀ x rest, s.sched = x :: rest → x.txn ≠ .reset) ∧ s.busy = true ∧ ∃ t, step s = .next t) ∧
    (let s := State.reset.withCommand 0x40000000#64
     s.StatusConsistent ∧ (∃ x rest v, s.sched = x :: rest ∧ x.txn = .write ctrlIndex v) ∧ ∃ t, step s = .next t) :=
  ⟨reset_status, rfl, ⟨.inl ⟨rfl, rfl, rfl⟩, fun _ _ h => (by cases h), rfl, _, rfl⟩,
    .inl ⟨rfl, rfl, rfl⟩, ⟨_, _, _, rfl, rfl⟩, _, rfl⟩
theorem witness_StepKeepsEngine :
    (receiving [1, 2]).EngineConsistent ∧ (receiving [1, 2]).CodecConsistent ∧ (receiving [1, 2]).ChecksHold ∧
    ∃ t, step (receiving [1, 2]) = .next t :=
  ⟨⟨rfl, .inl rfl⟩, ⟨by decide, fun _ _ _ _ _ => by decide⟩,
    fun _ _ _ h => by cases h; decide +kernel, _, rfl⟩
theorem witness_StepKeepsRatioPositive : State.reset.RatioPositive ∧ step State.reset = .next State.reset :=
  ⟨reset_ratio, rfl⟩

/-- SEND waiting for a byte while the host writes CFG_N. -/
theorem witness_ConfigFrozenWhileBusy :
    let s := { running .send .data stA with sched := [{ txn := .write Reg.cfgN.index 8, burst := 0 }] }
    s.busy = true ∧ (∀ x rest, s.sched = x :: rest → x.txn ≠ .reset) ∧ s.EngineConsistent ∧
    (∀ todo ph, s.eng ≠ .run .recv todo ph) ∧ ∃ t, step s = .next t :=
  ⟨rfl, fun x rest h => (by injection h with h; rw [← h]; exact fun e => by cases e), ⟨rfl, .inl ⟨rfl, rfl⟩⟩,
    fun _ _ h => (by cases h), _, rfl⟩

/-- SEND's first step, with every input port open. -/
theorem witness_ArrivalCommutes :
    let s := running .send (.lead 0) filled
    s.engineStep = some (running .send (.preamble 0) filled) ∧ s.port.byteIn.length < s.par.depth.byteIn ∧
    s.port.byteInEos = false ∧ s.port.smpIn.length < s.par.depth.smpIn ∧ s.port.smpInEos = false ∧
    s.port.symIn.length < s.par.depth.symIn ∧ s.port.symInEos = false ∧
    (∀ c rest ph, s.eng ≠ .run c (.clearByteIn :: rest) ph) ∧ (∀ c rest ph, s.eng ≠ .run c (.clearSmpIn :: rest) ph) :=
  ⟨by decide +kernel, by decide, rfl, by decide, rfl, by decide, rfl, fun _ _ _ h => (by cases h), fun _ _ _ h => (by cases h)⟩

theorem witness_FrameOfModAndSend :
    stA.busy = false ∧ (∃ t, exec (.mod 1) stA = .next t) ∧ ∃ t, exec .send stA = .next t := ⟨rfl, ⟨_, rfl⟩, _, rfl⟩
theorem witness_FrameOfAdvAndDemod :
    stA.busy = false ∧ (∃ t, exec (.rsAdv 1) stA = .next t) ∧ ∃ t, exec (.demod 1) stA = .next t :=
  ⟨rfl, ⟨_, rfl⟩, _, rfl⟩
theorem witness_FrameOfRecv :
    stA.busy = false ∧ (∃ t, exec .recv stA = .next t) ∧ stA.TablesCanonical ∧ stA.nCar ≤ 1 :=
  ⟨rfl, ⟨_, rfl⟩, stA_tables, by decide⟩

end Sys2Proof.Machine.Test
end

section
/-! PROOFS. binary64 patterns (00_scope.md R14): `f64` and `bits64` as functions of a pattern's magnitude bits.

Every magnitude number is `k * 2^52 + j` with a significand j below 2^53, at least 2^52 unless k = 0, and stands for
j · 2^(k − 1074). `f64Magnitude q` chooses the k whose range of significands holds q and rounds on that grid; a value of
a coarser grid is on it too, and a value of a finer one is below 2^52 grid steps, where q is not. -/

namespace Sys2Proof

/-! ### Powers of 2, the exponent and rounding -/

theorem pow2_eq_zpow (e : Int) : pow2 e = (2 : Rat) ^ e := by
  unfold pow2
  split
  case isTrue h =>
    obtain ⟨n, rfl⟩ := Int.eq_ofNat_of_zero_le h
    simp
  case isFalse h =>
    obtain ⟨n, hn⟩ := Int.eq_ofNat_of_zero_le (show 0 ≤ -e by omega)
    obtain rfl : e = -n := by omega
    simp

theorem floorLog2_bounds {q : Scalar} (hq : 0 < q) :
    (2 : Rat) ^ floorLog2 q ≤ q ∧ q < (2 : Rat) ^ (floorLog2 q + 1) := by
  have hnum : q.num.natAbs ≠ 0 := by simpa using hq.ne'
  have hden : (0 : Rat) < q.den := mod_cast q.den_pos
  have hq_eq : q = (q.num.natAbs : Rat) / q.den := by
    rw [Nat.cast_natAbs, abs_of_pos (Rat.num_pos.2 hq), Rat.num_div_den]
  have two_ne : (2 : Rat) ≠ 0 := two_ne_zero
  have hn_le : (2 : Rat) ^ (Nat.log2 q.num.natAbs : Int) ≤ q.num.natAbs := mod_cast Nat.log2_self_le hnum
  have hn_lt : (q.num.natAbs : Rat) < 2 ^ ((Nat.log2 q.num.natAbs : Int) + 1) := mod_cast Nat.lt_log2_self
  have hd_le : (2 : Rat) ^ (Nat.log2 q.den : Int) ≤ q.den := mod_cast Nat.log2_self_le q.den_nz
  have hd_lt : (q.den : Rat) < 2 ^ ((Nat.log2 q.den : Int) + 1) := mod_cast Nat.lt_log2_self
  have lower : (2 : Rat) ^ ((Nat.log2 q.num.natAbs : Int) - Nat.log2 q.den - 1) ≤ q := by
    conv_rhs => rw [hq_eq]
    rw [show ((Nat.log2 q.num.natAbs : Int) - Nat.log2 q.den - 1) = Nat.log2 q.num.natAbs - (Nat.log2 q.den + 1) by ring,
      zpow_sub₀ two_ne]
    gcongr
  have upper : q < (2 : Rat) ^ ((Nat.log2 q.num.natAbs : Int) - Nat.log2 q.den + 1) := by
    conv_lhs => rw [hq_eq]
    rw [show ((Nat.log2 q.num.natAbs : Int) - Nat.log2 q.den + 1) = Nat.log2 q.num.natAbs + 1 - Nat.log2 q.den by ring,
      zpow_sub₀ two_ne]
    gcongr
  unfold floorLog2
  simp only [pow2_eq_zpow]
  split
  case isTrue h => exact ⟨h, upper⟩
  case isFalse h => exact ⟨lower, by simpa using h⟩

/-- `roundHE q` is at most 1/2 away from q, and even when it is 1/2 away (00_scope.md R11). -/
theorem abs_roundHE_sub (q : Scalar) :
    |(roundHE q : Rat) - q| ≤ 1 / 2 ∧ (|(roundHE q : Rat) - q| = 1 / 2 → roundHE q % 2 = 0) := by
  have hlo : (q.floor : Rat) ≤ q := Rat.floor_le q
  have hhi : q < q.floor + 1 := mod_cast Rat.lt_floor_add_one q
  have hfloor : |(q.floor : Rat) - q| = q - q.floor := by rw [abs_of_nonpos (by linarith)]; ring
  have hceil : |((q.floor + 1 : Int) : Rat) - q| = q.floor + 1 - q := by
    rw [abs_of_nonneg (by push_cast; linarith)]; push_cast; ring
  unfold roundHE
  dsimp only
  split_ifs with below above even
  · rw [hfloor]; exact ⟨below.le, fun h => absurd h below.ne⟩
  · rw [hceil]; exact ⟨by linarith, fun h => by linarith⟩
  · rw [hfloor]; exact ⟨by linarith, fun _ => even⟩
  · rw [hceil]; exact ⟨by linarith, fun _ => by omega⟩

/-- No integer is nearer to q than `roundHE q`, and when another is equally near, `roundHE q` is even. -/
theorem roundHE_nearest (q : Scalar) (i : Int) :
    |(roundHE q : Rat) - q| ≤ |(i : Rat) - q| ∧
    (|(roundHE q : Rat) - q| = |(i : Rat) - q| → i ≠ roundHE q → roundHE q % 2 = 0) := by
  obtain ⟨hhalf, heven⟩ := abs_roundHE_sub q
  by_cases hi : i = roundHE q
  case pos => exact ⟨by rw [hi], fun _ h => absurd hi h⟩
  case neg =>
    have hgap : (1 : Rat) ≤ |(i : Rat) - roundHE q| := mod_cast Int.one_le_abs (sub_ne_zero.2 hi)
    have htri : |(i : Rat) - roundHE q| ≤ |(i : Rat) - q| + |(roundHE q : Rat) - q| := by
      rw [abs_sub_comm (roundHE q : Rat)]; exact abs_sub_le _ _ _
    exact ⟨by linarith, fun heq _ => heven (by linarith)⟩

theorem roundHE_le {q : Scalar} {n : Int} (h : q < n + 1 / 2) : roundHE q ≤ n := by
  have hup := (abs_le.1 (abs_roundHE_sub q).1).2
  exact Int.lt_add_one_iff.1 (mod_cast (by push_cast; linarith : (roundHE q : Rat) < (n + 1 : Int)))

theorem le_roundHE {q : Scalar} {n : Int} (h : n ≤ q) : n ≤ roundHE q := by
  have hlow := (abs_le.1 (abs_roundHE_sub q).1).1
  exact Int.lt_add_one_iff.1 (mod_cast (by push_cast; linarith : (n : Rat) < (roundHE q + 1 : Int)))

@[simp] theorem roundHE_natCast (n : Nat) : roundHE (n : Rat) = n :=
  le_antisymm (roundHE_le (by push_cast; linarith)) (le_roundHE (by simp))

/-! ### The value of a magnitude number -/

/-- The step of grid k: the distance of the values with the magnitude bits k · 2^52 + j. -/
def gridStep (k : Nat) : Scalar := 2 ^ (k - 1074 : Int)

/-- The value of the pattern with sign bit 0 and the magnitude bits m. -/
def f64Value (m : Nat) : Scalar :=
  if m / 2 ^ 52 = 0 then m * gridStep 0 else (2 ^ 52 + m % 2 ^ 52 : Nat) * gridStep (m / 2 ^ 52 - 1)

/-- q lies where the significands of grid k do: below 2^53 steps, and from 2^52 steps up unless k = 0. -/
def InBinade (k : Nat) (q : Scalar) : Prop := q < 2 ^ 53 * gridStep k ∧ (k = 0 ∨ 2 ^ 52 * gridStep k ≤ q)

theorem gridStep_pos (k : Nat) : 0 < gridStep k := by unfold gridStep; positivity

theorem pow_mul_gridStep (n k : Nat) : 2 ^ n * gridStep k = 2 ^ (k - 1074 + n : Int) := by
  rw [gridStep, zpow_add₀ two_ne_zero, zpow_natCast, mul_comm]

theorem gridStep_add (k d : Nat) : gridStep (k + d) = 2 ^ d * gridStep k := by
  rw [pow_mul_gridStep, gridStep]; push_cast; ring_nf

theorem pow2_eq_gridStep (k : Nat) : pow2 (k - 1074) = gridStep k := pow2_eq_zpow _

theorem gridStep_mono {k k' : Nat} (h : k ≤ k') : gridStep k ≤ gridStep k' :=
  zpow_le_zpow_right₀ one_le_two (by omega)

theorem exists_grid (m : Nat) : ∃ k j : Nat, m = k * 2 ^ 52 + j ∧ j < 2 ^ 53 ∧ (k = 0 ∨ 2 ^ 52 ≤ j) :=
  ⟨m / 2 ^ 52 - 1, m - (m / 2 ^ 52 - 1) * 2 ^ 52, by omega, by omega, by omega⟩

/-- The value as `f64` writes it, in the exponent and fraction fields. -/
theorem f64Value_eq_fields (m : Nat) :
    f64Value m = if m / 2 ^ 52 = 0 then (m % 2 ^ 52 : Nat) * pow2 (-1074)
      else (2 ^ 52 + m % 2 ^ 52 : Nat) * pow2 ((m / 2 ^ 52 : Nat) - 1075) := by
  unfold f64Value
  split
  case isTrue h => rw [show m % 2 ^ 52 = m by omega, ← pow2_eq_gridStep]; rfl
  case isFalse h => rw [← pow2_eq_gridStep]; congr 2; omega

/-- The last case is the carry of a significand that rounds up to 2^53. -/
theorem f64Value_grid {k j : Nat} (hj : j ≤ 2 ^ 53) (hk : k = 0 ∨ 2 ^ 52 ≤ j) :
    f64Value (k * 2 ^ 52 + j) = j * gridStep k := by
  unfold f64Value
  rcases Nat.lt_or_ge j (2 ^ 52) with hsub | hnorm
  · obtain rfl : k = 0 := by omega
    rw [if_pos (by omega), zero_mul, zero_add]
  · rw [if_neg (by omega)]
    rcases hj.lt_or_eq with hlt | rfl
    · rw [show (k * 2 ^ 52 + j) / 2 ^ 52 - 1 = k by omega, show 2 ^ 52 + (k * 2 ^ 52 + j) % 2 ^ 52 = j by omega]
    · rw [show (k * 2 ^ 52 + 2 ^ 53) / 2 ^ 52 - 1 = k + 1 by omega, show (k * 2 ^ 52 + 2 ^ 53) % 2 ^ 52 = 0 by omega,
        gridStep_add]
      push_cast; ring

theorem inBinade_grid {k j : Nat} (hj : j < 2 ^ 53) (hk : k = 0 ∨ 2 ^ 52 ≤ j) : InBinade k (j * gridStep k) := by
  have hstep := gridStep_pos k
  refine ⟨?_, hk.imp_right fun h => ?_⟩
  · gcongr; exact mod_cast hj
  · gcongr; exact mod_cast h

/-! ### The magnitude number of a real -/

/-- The k of the grid `f64Magnitude` rounds on. -/
def gridExp (q : Scalar) : Nat := (max (floorLog2 q) (-1022) + 1022).toNat

theorem f64Magnitude_eq (q : Scalar) :
    f64Magnitude q = gridExp q * 2 ^ 52 + (roundHE (q / gridStep (gridExp q))).toNat := by
  have he : max (floorLog2 q) (-1022) = (gridExp q : Int) - 1022 := by unfold gridExp; omega
  unfold f64Magnitude
  dsimp only
  rw [he, pow2_eq_zpow, div_eq_mul_inv, gridStep, ← zpow_neg,
    show (52 - ((gridExp q : Int) - 1022)) = -(gridExp q - 1074) by ring]
  simp

theorem gridExp_inBinade {q : Scalar} (hq : 0 < q) : InBinade (gridExp q) q := by
  obtain ⟨hlow, hup⟩ := floorLog2_bounds hq
  unfold InBinade
  rw [pow_mul_gridStep, pow_mul_gridStep]
  refine ⟨hup.trans_le (zpow_le_zpow_right₀ one_le_two (by unfold gridExp; omega)), ?_⟩
  by_cases h : gridExp q = 0
  · exact .inl h
  · exact .inr ((zpow_le_zpow_right₀ one_le_two (by unfold gridExp at *; omega)).trans hlow)

theorem gridExp_unique {k : Nat} {q : Scalar} (hq : 0 < q) (h : InBinade k q) : gridExp q = k := by
  obtain ⟨hlow, hup⟩ := floorLog2_bounds hq
  unfold InBinade at h
  rw [pow_mul_gridStep, pow_mul_gridStep] at h
  obtain ⟨hlt, hge⟩ := h
  have hle := (zpow_lt_zpow_iff_right₀ one_lt_two).1 (hlow.trans_lt hlt)
  rcases hge with rfl | hge
  · unfold gridExp; omega
  · have := (zpow_lt_zpow_iff_right₀ one_lt_two).1 (hge.trans_lt hup)
    unfold gridExp; omega

/-- A value rounds to its own magnitude number. -/
theorem f64Magnitude_f64Value {m : Nat} (h : 0 < f64Value m) : f64Magnitude (f64Value m) = m := by
  obtain ⟨k, j, rfl, hj, hk⟩ := exists_grid m
  rw [f64Value_grid hj.le hk] at h ⊢
  rw [f64Magnitude_eq, gridExp_unique h (inBinade_grid hj hk), mul_div_cancel_right₀ _ (gridStep_pos k).ne',
    roundHE_natCast, Int.toNat_natCast]

theorem exists_significand {q : Scalar} (hq : 0 < q) :
    ∃ j : Nat, (j : Int) = roundHE (q / gridStep (gridExp q)) ∧ f64Magnitude q = gridExp q * 2 ^ 52 + j ∧
      j ≤ 2 ^ 53 ∧ (gridExp q = 0 ∨ 2 ^ 52 ≤ j) := by
  obtain ⟨hlt, hge⟩ := gridExp_inBinade hq
  have hstep := gridStep_pos (gridExp q)
  rw [← div_lt_iff₀ hstep] at hlt
  rw [← le_div_iff₀ hstep] at hge
  have h0 : 0 ≤ roundHE (q / gridStep (gridExp q)) := le_roundHE (by push_cast; positivity)
  refine ⟨_, Int.toNat_of_nonneg h0, f64Magnitude_eq q, ?_, hge.imp_right fun h => ?_⟩
  · have := roundHE_le (n := 2 ^ 53) (q := q / gridStep (gridExp q)) (by push_cast; linarith)
    omega
  · have := le_roundHE (n := 2 ^ 52) (q := q / gridStep (gridExp q)) (by push_cast; linarith)
    omega

/-- The spec's bound on x is half a step below the infinity's number, on the last grid. -/
theorem pow2_1024_sub_pow2_970 : pow2 1024 - pow2 970 = (2 ^ 53 - 1 / 2) * gridStep 2045 := by
  have h1024 : pow2 1024 = 2 ^ 53 * gridStep 2045 := (pow2_eq_gridStep 2098).trans (gridStep_add 2045 53)
  have h970 : pow2 970 = gridStep 2044 := pow2_eq_gridStep 2044
  have hstep : gridStep 2045 = 2 ^ 1 * gridStep 2044 := gridStep_add 2044 1
  rw [h1024, h970, hstep]; ring

theorem f64Magnitude_lt_infinite {q : Scalar} (hq : 0 < q) (h : q < pow2 1024 - pow2 970) :
    f64Magnitude q < f64Infinite := by
  obtain ⟨j, hround, hmag, hj, -⟩ := exists_significand hq
  rw [pow2_1024_sub_pow2_970] at h
  have hk : gridExp q ≤ 2045 := by
    by_contra hgt
    have hge := (gridExp_inBinade hq).2.resolve_left (by omega)
    have hstep : gridStep 2046 = 2 ^ 1 * gridStep 2045 := gridStep_add 2045 1
    have := gridStep_mono (k := 2046) (k' := gridExp q) (by omega)
    have := gridStep_pos 2045
    linarith
  rw [hmag, f64Infinite]
  rcases hk.lt_or_eq with hlt | heq
  · omega
  · rw [heq] at hround ⊢
    rw [← div_lt_iff₀ (gridStep_pos _)] at h
    have := roundHE_le (n := 2 ^ 53 - 1) (q := q / gridStep 2045) (by push_cast; linarith)
    omega

/-! ### The magnitude number's value is nearest -/

/-- A value is on another grid, or below that grid's significands. -/
theorem f64Value_onGrid_or_lt (k n : Nat) :
    (∃ i : Nat, f64Value n = i * gridStep k) ∨ (k ≠ 0 ∧ f64Value n < 2 ^ 52 * gridStep k) := by
  obtain ⟨k', j, rfl, hj, hk'⟩ := exists_grid n
  rw [f64Value_grid hj.le hk']
  rcases le_or_gt k k' with hle | hlt
  · obtain ⟨d, rfl⟩ := Nat.exists_eq_add_of_le hle
    refine .inl ⟨j * 2 ^ d, ?_⟩
    rw [gridStep_add]; push_cast; ring
  · refine .inr ⟨by omega, ?_⟩
    calc (j : Rat) * gridStep k' < 2 ^ 53 * gridStep k' := (inBinade_grid hj hk').1
      _ = 2 ^ 52 * gridStep (k' + 1) := by rw [gridStep_add]; ring
      _ ≤ 2 ^ 52 * gridStep k := by gcongr; exact gridStep_mono hlt

/-- No point of its grid is nearer to q, and when another one is equally near, the magnitude number is even. -/
theorem f64Magnitude_nearest_onGrid {q : Scalar} (hq : 0 < q) (i : Int) :
    |f64Value (f64Magnitude q) - q| ≤ |i * gridStep (gridExp q) - q| ∧
    (|f64Value (f64Magnitude q) - q| = |i * gridStep (gridExp q) - q| →
      i * gridStep (gridExp q) ≠ f64Value (f64Magnitude q) → f64Magnitude q % 2 = 0) := by
  obtain ⟨j, hround, hmag, hj, hk⟩ := exists_significand hq
  rw [hmag, f64Value_grid hj hk]
  generalize gridExp q = k at *
  have hstep := gridStep_pos k
  have scaled (r : Rat) : |r * gridStep k - q| = |r - q / gridStep k| * gridStep k := by
    rw [← abs_of_pos hstep, ← abs_mul, sub_mul, abs_of_pos hstep, div_mul_cancel₀ _ hstep.ne']
  obtain ⟨hle, heven⟩ := roundHE_nearest (q / gridStep k) i
  rw [← hround, Int.cast_natCast] at hle heven
  rw [scaled, scaled]
  refine ⟨by gcongr, fun heq hne => ?_⟩
  have := heven (mul_right_cancel₀ hstep.ne' heq) (by rintro rfl; exact hne (by simp))
  omega

/-- No value, of either sign, is nearer to q, and when another one is equally near, the magnitude number is even. -/
theorem f64Magnitude_nearest {q y : Scalar} {n : Nat} (hq : 0 < q) (hy : |y| = f64Value n) :
    |f64Value (f64Magnitude q) - q| ≤ |y - q| ∧
    (|f64Value (f64Magnitude q) - q| = |y - q| → y ≠ f64Value (f64Magnitude q) → f64Magnitude q % 2 = 0) := by
  have nearest := f64Magnitude_nearest_onGrid hq
  rcases f64Value_onGrid_or_lt (gridExp q) n with ⟨i, hi⟩ | ⟨hk, hlt⟩
  · rcases (abs_eq (hi ▸ hy ▸ abs_nonneg y)).1 (hy.trans hi) with h | h
    · simpa [h] using nearest i
    · simpa [h] using nearest (-i)
  · have hedge : 2 ^ 52 * gridStep (gridExp q) ≤ q := (gridExp_inBinade hq).2.resolve_left hk
    have hy_lt : y < 2 ^ 52 * gridStep (gridExp q) := (le_abs_self y).trans_lt (hy ▸ hlt)
    have hcloser : |2 ^ 52 * gridStep (gridExp q) - q| < |y - q| := by
      rw [abs_of_nonpos (by linarith), abs_of_nonpos (by linarith)]; linarith
    have hstrict := lt_of_le_of_lt (nearest (2 ^ 52)).1 (by push_cast; exact hcloser)
    exact ⟨hstrict.le, fun heq => absurd heq hstrict.ne⟩

/-! ### Patterns as a sign bit and magnitude bits -/

theorem f64Exp_eq (w : Word) : f64Exp w = w.toNat / 2 ^ 52 % 2048 := by
  simp [f64Exp, BitVec.extractLsb'_toNat, Nat.shiftRight_eq_div_pow]

theorem f64Frac_eq (w : Word) : f64Frac w = w.toNat % 2 ^ 52 := by
  simp [f64Frac, BitVec.extractLsb'_toNat]

/-- The pattern with the sign bit `neg` and the magnitude bits m. -/
def f64Pattern (neg : Bool) (m : Nat) : Word := BitVec.ofNat 64 (neg.toNat * 2 ^ 63 + m)

theorem exists_pattern (w : Word) : ∃ neg m, m < 2 ^ 63 ∧ w = f64Pattern neg m := by
  have hw := w.isLt
  rcases Nat.lt_or_ge w.toNat (2 ^ 63) with hlt | hge
  · exact ⟨false, w.toNat, hlt, by simp [f64Pattern]⟩
  · refine ⟨true, w.toNat - 2 ^ 63, by omega, BitVec.eq_of_toNat_eq ?_⟩
    rw [f64Pattern, BitVec.toNat_ofNat, Bool.toNat_true]
    omega

section
variable {neg : Bool} {m : Nat} (hm : m < 2 ^ 63)
include hm

theorem f64Pattern_toNat : (f64Pattern neg m).toNat = neg.toNat * 2 ^ 63 + m := by
  rw [f64Pattern, BitVec.toNat_ofNat]
  cases neg <;> simp <;> omega

theorem f64Pattern_msb : (f64Pattern neg m).msb = neg := by
  rw [BitVec.msb_eq_decide, f64Pattern_toNat hm]
  cases neg <;> simp; omega

theorem f64Pattern_lsb : (f64Pattern neg m).getLsbD 0 = decide (m % 2 = 1) := by
  rw [BitVec.getLsbD, f64Pattern_toNat hm, Nat.testBit_zero]
  cases neg <;> simp; omega

theorem f64_pattern :
    f64 (f64Pattern neg m) = if f64Infinite ≤ m then none else some (if neg then -f64Value m else f64Value m) := by
  have hexp : f64Exp (f64Pattern neg m) = m / 2 ^ 52 := by
    rw [f64Exp_eq, f64Pattern_toNat hm]; cases neg <;> simp <;> omega
  have hfrac : f64Frac (f64Pattern neg m) = m % 2 ^ 52 := by
    rw [f64Frac_eq, f64Pattern_toNat hm]; cases neg <;> simp; omega
  have hinf : m / 2 ^ 52 = 2047 ↔ f64Infinite ≤ m := by unfold f64Infinite; omega
  unfold f64
  dsimp only
  rw [hexp, hfrac, ← f64Value_eq_fields, f64Pattern_msb hm]
  simp only [hinf]

end

theorem f64Value_nonneg (m : Nat) : 0 ≤ f64Value m := by
  obtain ⟨k, j, rfl, hj, hk⟩ := exists_grid m
  rw [f64Value_grid hj.le hk]
  have := gridStep_pos k
  positivity

@[simp] theorem f64Value_zero : f64Value 0 = 0 := by simp [f64Value]

theorem abs_f64 {w : Word} {x : Scalar} (h : f64 w = some x) : ∃ m, |x| = f64Value m := by
  obtain ⟨neg, m, hm, rfl⟩ := exists_pattern w
  rw [f64_pattern hm] at h
  split at h
  · cases h
  · cases h
    exact ⟨m, by cases neg <;> simp [abs_of_nonneg (f64Value_nonneg m)]⟩

/-! ### `bits64` -/

theorem bits64_of_pos {x : Scalar} (hx : 0 < x) (h : f64Magnitude x < f64Infinite) :
    bits64 x = f64Pattern false (f64Magnitude x) := by
  simp [bits64, f64Pattern, hx, hx.ne', h.not_ge]

/-- The sign of the zero a negative x rounds to is free (log entry 9). -/
theorem bits64_of_neg {x : Scalar} (hx : x < 0) (h : f64Magnitude (-x) < f64Infinite) :
    ∃ neg, bits64 x = f64Pattern neg (f64Magnitude (-x)) ∧ (f64Magnitude (-x) ≠ 0 → neg = true) := by
  by_cases h0 : f64Magnitude (-x) = 0
  · refine ⟨Config.negativeZero x, ?_, fun hne => absurd h0 hne⟩
    cases hz : Config.negativeZero x <;> simp [bits64, f64Pattern, hx.not_gt, hx.ne, h0, hz, f64Infinite]
  · exact ⟨true, by simp [bits64, f64Pattern, hx.not_gt, hx.ne, h.not_ge, h0], fun _ => rfl⟩

theorem f64Infinite_lt : f64Infinite < 2 ^ 63 := by decide

theorem f64_pattern_of_finite {neg : Bool} {m : Nat} (h : m < f64Infinite) :
    f64 (f64Pattern neg m) = some (if neg then -f64Value m else f64Value m) := by
  rw [f64_pattern (h.trans f64Infinite_lt), if_neg h.not_ge]

theorem f64_bits64_of_neg {x : Scalar} (hx : x < 0) (h : f64Magnitude (-x) < f64Infinite) :
    f64 (bits64 x) = some (-f64Value (f64Magnitude (-x))) := by
  obtain ⟨neg, heq, hneg⟩ := bits64_of_neg hx h
  rw [heq, f64_pattern_of_finite h]
  by_cases h0 : f64Magnitude (-x) = 0
  · simp [h0]
  · simp [hneg h0]

/-- `bits64` gives back the pattern of a value other than 0. -/
theorem bits64_f64 {w : Word} {x : Scalar} (h : f64 w = some x) (hx : x ≠ 0) : bits64 x = w := by
  obtain ⟨neg, m, hm, rfl⟩ := exists_pattern w
  rw [f64_pattern hm] at h
  split at h
  case isTrue => cases h
  case isFalse hfin =>
    rw [not_le] at hfin
    have hpos : f64Value m ≠ 0 → 0 < f64Value m := (f64Value_nonneg m).lt_of_ne'
    cases neg
    case false =>
      obtain rfl : f64Value m = x := by simpa using h
      have hmag := f64Magnitude_f64Value (hpos hx)
      rw [bits64_of_pos (hpos hx) (by rwa [hmag]), hmag]
    case true =>
      obtain rfl : -f64Value m = x := by simpa using h
      have hval := hpos (neg_ne_zero.1 hx)
      have hmag : f64Magnitude (- -f64Value m) = m := by rw [neg_neg, f64Magnitude_f64Value hval]
      have hm0 : m ≠ 0 := by rintro rfl; simp at hval
      obtain ⟨neg, heq, hneg⟩ := bits64_of_neg (neg_neg_of_pos hval) (by rwa [hmag])
      rw [hmag] at heq hneg
      rw [heq, hneg hm0]

theorem f64_eq_none_iff (w : Word) : f64 w = none ↔ w.toNat / 2 ^ 52 % 2048 = 2047 := by
  rw [← f64Exp_eq]
  simp [f64]

/-- Settles O16: the magnitude number of a finite pattern's value is that pattern's own. -/
theorem binary64Exact : Obligations.Binary64Exact := by
  unfold Obligations.Binary64Exact
  exact ⟨fun _ _ h hx => bits64_f64 h hx, by simp [bits64], f64_eq_none_iff⟩

/-- z, the value of w, is a value nearest to x, and w's lowest bit is 0 when another value is equally near. -/
def NearestTo (x : Scalar) (w : Word) (z : Scalar) : Prop :=
  f64 w = some z ∧ ∀ (v : Word) (y : Scalar), f64 v = some y →
    |z - x| ≤ |y - x| ∧ (|z - x| = |y - x| → y ≠ z → w.getLsbD 0 = false)

theorem bits64_nearest_of_pos {x : Scalar} (hx : 0 < x) (h : x < pow2 1024 - pow2 970) :
    NearestTo x (bits64 x) (f64Value (f64Magnitude x)) := by
  have hfin := f64Magnitude_lt_infinite hx h
  rw [bits64_of_pos hx hfin]
  refine ⟨by simp [f64_pattern_of_finite hfin], fun v y hy => ?_⟩
  obtain ⟨n, hn⟩ := abs_f64 hy
  obtain ⟨hle, heven⟩ := f64Magnitude_nearest hx hn
  refine ⟨hle, fun heq hne => ?_⟩
  rw [f64Pattern_lsb (hfin.trans f64Infinite_lt)]
  simp [heven heq hne]

theorem bits64_nearest_of_neg {x : Scalar} (hx : x < 0) (h : -x < pow2 1024 - pow2 970) :
    NearestTo x (bits64 x) (-f64Value (f64Magnitude (-x))) := by
  have hfin := f64Magnitude_lt_infinite (neg_pos.2 hx) h
  refine ⟨f64_bits64_of_neg hx hfin, fun v y hy => ?_⟩
  obtain ⟨n, hn⟩ := abs_f64 hy
  obtain ⟨hle, heven⟩ := f64Magnitude_nearest (y := -y) (neg_pos.2 hx) ((abs_neg y).trans hn)
  have mirror (a : Scalar) : |a - x| = |-a - -x| := by rw [← abs_neg]; ring_nf
  rw [mirror, mirror, neg_neg]
  refine ⟨hle, fun heq hne => ?_⟩
  obtain ⟨neg, hbits, -⟩ := bits64_of_neg hx hfin
  rw [hbits, f64Pattern_lsb (hfin.trans f64Infinite_lt)]
  simp [heven heq fun h => hne (neg_eq_iff_eq_neg.1 h)]

theorem bits64_nearest_zero : NearestTo 0 (bits64 0) 0 :=
  ⟨by decide +kernel, fun _ y _ => ⟨by simp, fun heq hne => absurd (by simpa using heq.symm) hne⟩⟩

/-- Settles O17, by the sign of x: |x| is rounded to its grid and no value off the grid is nearer. -/
theorem binary64Nearest : Obligations.Binary64Nearest := by
  unfold Obligations.Binary64Nearest
  intro x hx
  obtain ⟨hlow, hup⟩ := abs_lt.1 hx
  rcases lt_trichotomy x 0 with hneg | rfl | hpos
  · exact ⟨_, bits64_nearest_of_neg hneg (neg_lt.1 hlow)⟩
  · exact ⟨_, bits64_nearest_zero⟩
  · exact ⟨_, bits64_nearest_of_pos hpos hup⟩

end Sys2Proof
end

section
/-! PROOFS. What one engine step does, said once: a step of a phase's rule is an effect on the state beside the engine mode
and an exit to a place in the rule. Every invariant of a run is shown on the effects and the exits. -/

namespace Sys2Proof.Machine

/-- What one step of a phase's rule does to the state beside the engine mode. -/
inductive PhaseEffect (s : State) : Phase → State → Prop
  | none (ph) : PhaseEffect s ph s
  /-- A unit taken from SMP_IN that completes no sample, or one that is skipped. -/
  | unit {ph recv x t} : s.popSample recv = .got x t → PhaseEffect s ph t
  /-- A sample taken into `rs.buf`. -/
  | sample {ph recv x t} : s.popSample recv = .got (some x) t → PhaseEffect s ph (t.appendSample x)
  /-- A resampler step. -/
  | resample (ph) : PhaseEffect s ph s.rsStep
  | symbol {ph u rest} : s.port.symIn = u :: rest → PhaseEffect s ph { s with port := { s.port with symIn := rest } }
  /-- A payload byte taken into the transmit codec. -/
  | byte {ph b rest} (tx : TxCodec) : s.port.byteIn = b :: rest →
    PhaseEffect s ph { s with port := { s.port with byteIn := rest }, tx := tx }
  | transmit (ph) (tx : TxCodec) : PhaseEffect s ph { s with tx := tx }
  /-- The search variables move. -/
  | search (ph) (d d0 dbest : Nat) (cbest : Scalar) :
    PhaseEffect s ph { s with rx := { s.rx with d := d, d0 := d0, dbest := dbest, cbest := cbest } }
  /-- SEARCHING ends with a peak. -/
  | peak (ph) : PhaseEffect s ph { s with
      reg := { s.reg with detPeak := bits64 s.rx.cbest, detOffset := BitVec.ofNat 64 s.rx.dbest }
      st := { s.st with rx := .calibrating } }
  /-- Calibration: the gains and the initial clock. -/
  | calibrate (gains : List Cx) (pos ratio : Scalar) :
    PhaseEffect s .calibrate (((({ s with rx := { s.rx with gains := gains }, cal := s.cal.storeGains 0 gains }.setPos
      pos).setRatio ratio).setPhase 0).setRx .receiving)
  /-- A received bit parsed. -/
  | bit (ph) (c : Bool) : PhaseEffect s ph { s with rx := (s.rx.rxBit c).1 }

/-- The state `t` a phase's step leaves after the effect `u`: the engine stays in the phase, the command ends, or the engine
goes on in another place. Data blocks begin to be demodulated only with a gain for each carrier. -/
inductive PhaseExit (u : State) (ph : Phase) : State → Prop
  | stay : PhaseExit u ph u
  | finish : PhaseExit u ph (u.endWith .none)
  | load (todo : List Act) (q : Phase) : (q.receiving = true → ph.receiving = true ∨ u.rx.gains.length = u.nCar) →
    PhaseExit u ph (u.load todo q)

section
variable {s t u : State} {ph : Phase}

theorem PhaseEffect.of_fetch {recv : Bool} {i : Int} (h : s.fetch recv i = .progress t) : PhaseEffect s ph t := by
  obtain ⟨-, hp | ⟨x, t₀, hp, rfl⟩⟩ := fetch_progress h
  · exact .unit hp
  · exact .sample hp

theorem PhaseEffect.of_popSym {v : SymbolUnit} (h : s.popSym = .got v t) : PhaseEffect s ph t := by
  obtain ⟨hin, ht⟩ := popSym_got h
  rw [ht]
  exact .symbol hin

theorem PhaseEffect.of_popByte {b : Byte} (tx : TxCodec) (h : s.popByte = .got b t) :
    PhaseEffect s ph { t with tx := tx } := by
  obtain ⟨hin, ht⟩ := popByte_got h
  rw [ht]
  exact .byte tx hin

/-- A step of a phase's rule is an effect, then an exit. -/
theorem stepPhase_cases (h : s.stepPhase ph = some t) :
    ∃ u, PhaseEffect s ph u ∧ PhaseExit u ph t := by
  cases ph with
  | adv left =>
    cases left with
    | zero => cases h; exact ⟨s, .none _, .finish⟩
    | succ left =>
      simp only [State.stepPhase, State.stepAdv] at h
      split at h <;> cases h
      · exact ⟨s, .none _, .finish⟩
      · exact ⟨t, .of_fetch ‹_›, .stay⟩
      · exact ⟨_, .resample _, .load _ _ nofun⟩
  | mod left syms =>
    cases left with
    | zero => cases h; exact ⟨s, .none _, .finish⟩
    | succ left =>
      simp only [State.stepPhase, State.stepMod] at h
      split at h
      · cases h
      · cases h; exact ⟨s, .none _, .finish⟩
      · split at h <;> cases h <;> exact ⟨_, .of_popSym ‹_›, .load _ _ nofun⟩
  | demod left win =>
    cases left with
    | zero => cases h; exact ⟨s, .none _, .finish⟩
    | succ left =>
      simp only [State.stepPhase, State.stepDemod] at h
      split at h
      · cases h
      · cases h; exact ⟨s, .none _, .finish⟩
      · cases h; exact ⟨t, .of_fetch ‹_›, .stay⟩
      · split at h <;> cases h <;> exact ⟨_, .resample _, .load _ _ nofun⟩
  | lead left => cases left <;> (cases h; exact ⟨s, .none _, .load _ _ nofun⟩)
  | preamble i =>
    simp only [State.stepPhase, State.stepPreamble] at h
    split at h <;> cases h
    · exact ⟨s, .none _, .load _ _ nofun⟩
    · exact ⟨_, .transmit _ _, .load _ _ nofun⟩
  | data =>
    simp only [State.stepPhase, State.stepData] at h
    split at h
    · cases h
    · cases h; exact ⟨s, .none _, .load _ _ nofun⟩
    · split at h <;> cases h <;> exact ⟨_, .of_popByte _ ‹_›, .load _ _ nofun⟩
  | emit queue last =>
    cases queue with
    | nil => cases h; exact ⟨_, .transmit _ _, .load _ _ (by cases last <;> exact nofun)⟩
    | cons b rest => cases h; exact ⟨_, .transmit _ _, .load _ _ nofun⟩
  | pad =>
    simp only [State.stepPhase, State.stepPad] at h
    split at h <;> cases h
    · exact ⟨s, .none _, .load _ _ nofun⟩
    · exact ⟨_, .transmit _ _, .load _ _ nofun⟩
  | trail left => cases left <;> (cases h; exact ⟨s, .none _, .load _ _ nofun⟩)
  | skip left =>
    cases left with
    | zero => cases h; exact ⟨_, .search _ _ _ _ _, .load _ _ nofun⟩
    | succ left =>
      simp only [State.stepPhase, State.stepSkip] at h
      split at h <;> cases h
      · exact ⟨s, .none _, .load _ _ nofun⟩
      · exact ⟨t, .unit ‹_›, .stay⟩
      · exact ⟨_, .unit ‹_›, .load _ _ nofun⟩
  | search =>
    simp only [State.stepPhase, State.stepSearch] at h
    split at h
    · cases h; exact ⟨s, .none _, .load _ _ nofun⟩
    · split at h
      · cases h
      · cases h; exact ⟨s, .none _, .load _ _ nofun⟩
      · cases h; exact ⟨t, .of_fetch ‹_›, .stay⟩
      · split at h <;> cases h
        · exact ⟨_, .search _ _ _ _ _, .load _ _ nofun⟩
        · exact ⟨_, .search _ _ _ _ _, .stay⟩
  | refine =>
    simp only [State.stepPhase, State.stepRefine] at h
    split at h
    · cases h; exact ⟨_, .peak _, .load _ _ nofun⟩
    · split at h
      · cases h
      · cases h; exact ⟨_, .peak _, .load _ _ nofun⟩
      · cases h; exact ⟨t, .of_fetch ‹_›, .stay⟩
      · split at h <;> cases h <;> exact ⟨_, .search _ _ _ _ _, .stay⟩
  | calibrate =>
    simp only [State.stepPhase, State.stepCalibrate, Option.some.injEq] at h
    rw [← h]
    exact ⟨_, .calibrate _ _ _, .load _ _ fun _ => .inr (by simp [State.nCar])⟩
  | receive win =>
    simp only [State.stepPhase, State.stepReceive] at h
    split at h
    · cases h
    · cases h; exact ⟨s, .none _, .load _ _ nofun⟩
    · cases h; exact ⟨t, .of_fetch ‹_›, .stay⟩
    · split at h <;> cases h <;> exact ⟨_, .resample _, .load _ _ fun _ => .inl rfl⟩
  | rxBits bits pilot =>
    simp only [State.stepPhase, State.stepRxBits] at h
    split at h
    · cases h; exact ⟨s, .none _, .load _ _ nofun⟩
    · cases bits <;> cases h
      · exact ⟨s, .none _, .load _ _ fun _ => .inl rfl⟩
      · exact ⟨_, .bit _ _, .load _ _ fun _ => .inl rfl⟩
  | confirm left =>
    cases left with
    | zero => cases h; exact ⟨s, .none _, .load _ _ nofun⟩
    | succ left =>
      simp only [State.stepPhase, State.stepConfirm] at h
      split at h <;> cases h
      · exact ⟨s, .none _, .load _ _ nofun⟩
      · exact ⟨t, .of_fetch ‹_›, .stay⟩
      · exact ⟨_, .resample _, .load _ _ nofun⟩
  | closing => cases h

/-- What a fixed action does; a push needs room in its port (20_memory.md R108). -/
inductive PerformCase (s : State) : Act → State → Prop
  | pushSmp (v : SampleUnit) : s.port.smpOut.length < s.par.depth.smpOut →
    PerformCase s (.pushSmp v) { s with port := { s.port with smpOut := s.port.smpOut ++ [v] } }
  | pushSym (v : SymbolUnit) : s.port.symOut.length < s.par.depth.symOut →
    PerformCase s (.pushSym v) { s with port := { s.port with symOut := s.port.symOut ++ [v] } }
  | pushByte (b : Byte) : s.port.byteOut.length < s.par.depth.byteOut →
    PerformCase s (.pushByte b) { s with port := { s.port with byteOut := s.port.byteOut ++ [b] } }
  | countUp : PerformCase s .countUp s.countUp
  | blockUp : PerformCase s .blockUp s.blockUp
  | track (z : Cx) : PerformCase s (.track z) (s.track z)
  | setRx (r : RxState) : PerformCase s (.setRx r) (s.setRx r)
  | clearByteIn : PerformCase s .clearByteIn s.clearByteIn
  | clearSmpIn : PerformCase s .clearSmpIn s.clearSmpIn
  | finish (c : Cause) : PerformCase s (.finish c) (s.endWith c)

theorem perform_cases {a : Act} (h : s.perform a = some t) : PerformCase s a t := by
  cases a with
  | pushSmp u => obtain ⟨hroom, rfl⟩ := pushSmp_eq_some.1 h; exact .pushSmp u hroom
  | pushSym u => obtain ⟨hroom, rfl⟩ := pushSym_eq_some.1 h; exact .pushSym u hroom
  | pushByte b => obtain ⟨hroom, rfl⟩ := pushByte_eq_some.1 h; exact .pushByte b hroom
  | _ => cases h; constructor

/-- The property a phase's effect, a fixed action, an end and a change of place keep, an engine step keeps. -/
theorem engineStep_keeps {P : State → Prop}
    (hload : ∀ s todo ph, P s → P (s.load todo ph))
    (hend : ∀ s c, P s → P (s.endWith c))
    (heffect : ∀ s ph u, PhaseEffect s ph u → P s → P u)
    (hperform : ∀ s a t, s.perform a = some t → P s → P t)
    (s t : State) (hs : P s) (h : s.engineStep = some t) : P t := by
  obtain ⟨c, a, rest, ph, -, h⟩ | ⟨c, ph, -, h⟩ := engineStep_cases h
  · exact hperform _ _ _ h (hload _ _ _ hs)
  · obtain ⟨u, heff, hexit⟩ := stepPhase_cases h
    have hu := heffect _ _ _ heff hs
    cases hexit with
    | stay => exact hu
    | finish => exact hend _ _ hu
    | load todo q _ => exact hload _ _ _ hu

theorem load_frame (s : State) (todo : List Act) (ph : Phase) :
    s.load todo ph = { s with eng := (s.load todo ph).eng } := by
  unfold State.load; split <;> rfl

/-- A pop of SMP_IN changes SMP_IN and, in RECV, DUMP and RX_CONSUMED; the pending PCM byte too. -/
theorem popSample_frame {recv : Bool} {x : Option Scalar} (h : s.popSample recv = .got x t) :
    t = { s with
      port := { s.port with smpIn := t.port.smpIn, dump := t.port.dump }
      reg := { s.reg with rxConsumed := t.reg.rxConsumed }
      pcmLo := t.pcmLo } := by
  obtain ⟨u, t₀, hp, hx⟩ := popSample_got h
  have h₀ : t₀ = { s with
      port := { s.port with smpIn := t₀.port.smpIn, dump := t₀.port.dump }
      reg := { s.reg with rxConsumed := t₀.reg.rxConsumed } } := by
    cases recv with
    | false => rw [(popSmp_got hp).2]
    | true => rw [(popSmp_recv_got hp).2.2.2]
  obtain ⟨-, -, rfl⟩ | ⟨-, -, -, rfl⟩ | ⟨-, lo, -, -, rfl⟩ := hx <;> rw [h₀]

/-! ### What one engine step reaches: the engine mode, STATUS, configuration and CAL -/

theorem busy_congr (h : t.eng = s.eng) : t.busy = s.busy := by unfold State.busy; rw [h]

theorem popSample_control {recv : Bool} {x : Option Scalar} (h : s.popSample recv = .got x t) :
    t.eng = s.eng ∧ t.st = s.st ∧ t.rx = s.rx := by
  rw [popSample_frame h]; exact ⟨rfl, rfl, rfl⟩

theorem fetch_control {recv : Bool} {i : Int} (h : s.fetch recv i = .progress t) : t.eng = s.eng ∧ t.st = s.st := by
  obtain ⟨-, hp | ⟨x, t₀, hp, rfl⟩⟩ := fetch_progress h <;> obtain ⟨heng, hst, -⟩ := popSample_control hp
  · exact ⟨heng, hst⟩
  · exact ⟨heng, hst⟩

/-- A phase's effect leaves the engine mode as it is and, of STATUS, reaches RXSTATE alone. -/
theorem phaseEffect_control (he : PhaseEffect s ph u) :
    u.eng = s.eng ∧ u.st = { s.st with rx := u.st.rx } := by
  cases he with
  | unit hp => rw [popSample_frame hp]; exact ⟨rfl, rfl⟩
  | sample hp => rw [popSample_frame hp]; exact ⟨rfl, rfl⟩
  | _ => exact ⟨rfl, rfl⟩

/-- RXSTATE after a fixed action. -/
def Act.nextRx (rx : RxState) : Act → RxState
  | .setRx r => r
  | _ => rx

/-- A fixed action is the command's end or leaves the engine mode as it is and, of STATUS, reaches RXSTATE alone. -/
theorem perform_control {a : Act} (hp : s.perform a = some t) :
    (∃ c, a = .finish c ∧ t = s.endWith c) ∨
    (t.eng = s.eng ∧ t.rx = s.rx ∧ t.st = { s.st with rx := a.nextRx s.st.rx }) := by
  cases perform_cases hp with
  | finish c => exact .inl ⟨c, rfl, rfl⟩
  | _ => exact .inr ⟨rfl, rfl, rfl⟩

theorem phaseEffect_cfg (he : PhaseEffect s ph u) : u.cfg = s.cfg := by
  cases he with
  | unit hp => exact (keepsSetup_popSample hp).cfg
  | sample hp => exact (keepsSetup_popSample hp).cfg
  | _ => rfl

/-- An engine step goes on with the same command or ends it. -/
theorem engineStep_command {c : Instr} {todo : List Act} {ph : Phase} (hc : s.eng = .run c todo ph)
    (h : s.engineStep = some t) : t.eng = .idle ∨ ∃ todo' ph', t.eng = .run c todo' ph' := by
  obtain ⟨c', a, rest, ph, hc', h⟩ | ⟨c', ph, hc', h⟩ := engineStep_cases h <;>
    obtain rfl : c = c' := by rw [hc] at hc'; cases hc'; rfl
  · obtain ⟨-, -, rfl⟩ | ⟨heng, -⟩ := perform_control h
    · exact .inl rfl
    · exact .inr ⟨rest, ph, heng.trans (load_eng hc _ _)⟩
  · obtain ⟨u, heff, hexit⟩ := stepPhase_cases h
    have hu : u.eng = _ := (phaseEffect_control heff).1.trans hc
    cases hexit with
    | stay => exact .inr ⟨_, _, hu⟩
    | finish => exact .inl rfl
    | load todo q _ => exact .inr ⟨_, _, load_eng hu _ _⟩

/-- Only calibration changes CAL. -/
theorem phaseEffect_cal (he : PhaseEffect s ph u) :
    u.cal = s.cal ∨ ph = .calibrate ∧ ∃ gains, u.cal = s.cal.storeGains 0 gains := by
  cases he with
  | calibrate gains => exact .inr ⟨rfl, gains, rfl⟩
  | unit hp => rw [popSample_frame hp]; exact .inl rfl
  | sample hp => exact .inl (by rw [appendSample_cal, popSample_frame hp])
  | _ => exact .inl rfl

theorem perform_cal {a : Act} (hp : s.perform a = some t) : t.cal = s.cal := by
  cases perform_cases hp <;> rfl

/-- An engine step writes the CAL table only in CALIBRATING, with nothing fixed before it. -/
theorem engineStep_cal (h : s.engineStep = some t) :
    t.cal = s.cal ∨ (∃ c, s.eng = .run c [] .calibrate) ∧ ∃ gains, t.cal = s.cal.storeGains 0 gains := by
  obtain ⟨c, a, rest, ph, -, h⟩ | ⟨c, ph, hc, h⟩ := engineStep_cases h
  · exact .inl ((perform_cal h).trans (load_cal _ _ _))
  · obtain ⟨u, heff, hexit⟩ := stepPhase_cases h
    have hcal : t.cal = u.cal := by cases hexit <;> simp
    rw [hcal]
    refine (phaseEffect_cal heff).imp_right fun ⟨hph, hg⟩ => ⟨⟨c, by rw [hc, hph]⟩, hg⟩

end

end Sys2Proof.Machine
end

section
/-! PROOFS. What the issue of a command, a host transaction and a turn can do, said once. -/

namespace Sys2Proof.Machine

section
variable {s t : State}

/-! ### The issue of a command -/

/-- A counted command starts in its phase, or ends at once when its count is 0 (30_encoding.md R142). -/
def State.startCounted (s : State) (n : Nat) (ph : Phase) : State := if n = 0 then s.endWith .none else s.load [] ph

theorem startCounted_keeps {P : State → Prop} (n : Nat) (ph : Phase) (hend : P (s.endWith .none))
    (hload : P (s.load [] ph)) : P (s.startCounted n ph) := by
  unfold State.startCounted
  split
  · exact hend
  · exact hload

/-- The start of an accepted command whose checks hold. -/
def begun : Instr → State → State
  | .nop, s => s.endWith .none
  | .srst, s => s.sessionReset.endWith .none
  | .calClear, s => s.calClear.endWith .none
  | .send, s => s.load [] (.lead s.cfg.silStart.toNat)
  | .recv, s => s.recvStart.load [] (.skip s.cfg.skip.toNat)
  | .mod n, s => s.startCounted n (.mod n [])
  | .demod n, s => s.startCounted n (.demod n [])
  | .rsInit, s => s.rsInit.endWith .none
  | .rsRatio, s => (s.setRatio s.ratio0).endWith .none
  | .rsAdv n, s => s.startCounted n (.adv n)

theorem issued_eq {i : Instr} (h : s.busy = false ∨ i ≠ .srst) : issued i s = s.issue i (·.checks i) (begun i) := by
  cases i
  case srst => exact if_neg (by simpa using h)
  all_goals rfl

/-- The issue of a command: SRST aborts a busy engine and any other word is rejected; idle, the command is accepted, and
begins if its checks hold (45_control.md R340 to R342, R345). -/
inductive IssueCase (i : Instr) (s : State) : State → Prop
  | abort : s.busy = true → IssueCase i s (s.sessionReset.endWith .aborted)
  | reject : s.busy = true → IssueCase i s s.reject
  | bad : s.busy = false → IssueCase i s ((s.accept i).endWith .badConfig)
  | begin : s.busy = false → s.checks i = true → IssueCase i s (begun i (s.accept i))

theorem issued_cases {i : Instr} (h : issued i s = t) : IssueCase i s t := by
  subst h
  cases hb : s.busy with
  | true =>
    by_cases hi : i = .srst
    · rw [hi, show issued .srst s = _ from if_pos hb]
      exact .abort hb
    · rw [issued_eq (.inr hi), issue_busy s hb]
      exact .reject hb
  | false =>
    rw [issued_eq (.inl hb)]
    cases hc : s.checks i with
    | true => rw [issue_ok s hb (by simpa)]; exact .begin hb hc
    | false => rw [issue_bad s hb (by simpa)]; exact .bad hb

/-- An illegal word is rejected while busy; idle, it is accepted and ends ILLEGAL (60_exceptions.md R371). -/
inductive IllegalCase (s : State) : State → Prop
  | reject : s.busy = true → IllegalCase s s.reject
  | ends : s.busy = false → IllegalCase s ((s.accept .nop).endWith .illegal)

theorem issueIllegal_cases (h : s.issueIllegal = t) : IllegalCase s t := by
  subst h
  unfold State.issueIllegal
  split
  · exact .reject ‹_›
  · exact .ends (Bool.eq_false_iff.2 ‹_›)

/-- What a rejection, an acceptance, an end, the session reset and a command's start keep, the issue of a command keeps. -/
theorem issued_keeps {P : State → Prop}
    (hreject : ∀ s, P s → P s.reject)
    (haccept : ∀ s c, P s → P (s.accept c))
    (hend : ∀ s c, P s → P (s.endWith c))
    (hsession : ∀ s, P s → P s.sessionReset)
    (hbegun : ∀ s c, P s → P (begun c s))
    (s : State) (i : Instr) (hs : P s) : P (issued i s) := by
  generalize h : issued i s = t
  cases issued_cases h with
  | abort => exact hend _ _ (hsession _ hs)
  | reject => exact hreject _ hs
  | bad => exact hend _ _ (haccept _ _ hs)
  | begin => exact hbegun _ _ (haccept _ _ hs)

/-- What a rejection, an acceptance and an end keep, an illegal word keeps. -/
theorem issueIllegal_keeps {P : State → Prop}
    (hreject : ∀ s, P s → P s.reject)
    (haccept : ∀ s c, P s → P (s.accept c))
    (hend : ∀ s c, P s → P (s.endWith c))
    (s : State) (hs : P s) : P s.issueIllegal := by
  generalize h : s.issueIllegal = t
  cases issueIllegal_cases h with
  | reject => exact hreject _ hs
  | ends => exact hend _ _ (haccept _ _ hs)

/-! ### Host transactions -/

/-- The state with a configuration register stored, as an idle machine's register write does. -/
def State.stored (s : State) (r : Reg) (v : Word) : State := { s with cfg := s.cfg.store r v, cal := s.cal.store r v }

/-- A register write sets WIGN, clears sticky STATUS bits, or stores a configuration register of an idle machine
(10_state.md R57 to R59). -/
inductive WriteCase (s : State) (v : Word) : State → Prop
  | ignored : WriteCase s v s.ignored
  | ctrl : WriteCase s v s
  | status : WriteCase s v (s.writeStatus v)
  | stored (r : Reg) : s.busy = false → WriteCase s v (s.stored r v)

theorem memWrite_cases {ix : Index} {v : Word} (h : s.memWrite ix v = t) : WriteCase s v t := by
  subst h
  unfold State.memWrite
  split
  · exact .ignored
  · split
    · exact .ignored
    · exact .ctrl
    · exact .status
    · split
      · exact .ignored
      · exact .stored _ (Bool.eq_false_iff.2 ‹_›)

/-- A transaction but a register write and the reset event reaches the reply and the ports alone. -/
theorem transact_port_frame (s : State) {x : HostTxn} (hw : ∀ i v, x ≠ .write i v) (hx : x ≠ .reset) :
    s.transact x = { s with reply := (s.transact x).reply, port := (s.transact x).port } := by
  cases x with
  | pass => rfl
  | read i => rfl
  | write i v => exact absurd rfl (hw i v)
  | pushByte b => simp only [State.transact, State.hostPushByte]; split <;> rfl
  | pushSmp u => simp only [State.transact, State.hostPushSmp]; split <;> rfl
  | pushSym u => simp only [State.transact, State.hostPushSym]; split <;> rfl
  | eos p => cases p <;> rfl
  | pop p => cases p <;> simp only [State.transact, State.hostPop] <;> split <;> rfl
  | reset => exact absurd rfl hx

/-- What a host transaction can do. -/
inductive TransactCase (s : State) : HostTxn → State → Prop
  | write {i v t} : WriteCase s v t → TransactCase s (.write i v) t
  | port {x} (r : Reply) (p : Ports) : TransactCase s x { s with reply := r, port := p }
  | reset : TransactCase s .reset s.hardReset

theorem transact_cases {x : HostTxn} (h : s.transact x = t) : TransactCase s x t := by
  subst h
  by_cases hw : ∃ i v, x = .write i v
  · obtain ⟨i, v, rfl⟩ := hw
    exact .write (memWrite_cases rfl)
  · by_cases hx : x = .reset
    · rw [hx]
      exact .reset
    · rw [transact_port_frame s (fun i v h => hw ⟨i, v, h⟩) hx]
      exact .port _ _

/-! ### A turn -/

/-- A turn writes a command word, an illegal word, or makes another transaction. -/
inductive TurnCase (s : State) (x : Turn) : State → Prop
  | command (i : Instr) {v : Word} : x.txn = .write ctrlIndex v → TurnCase s x (issued i s)
  | illegal {v : Word} : x.txn = .write ctrlIndex v → TurnCase s x s.issueIllegal
  | transact : x.txn.ctrlWord = none → TurnCase s x (s.transact x.txn)

theorem ctrlWord_eq_some {x : HostTxn} {v : Word} (h : x.ctrlWord = some v) : x = .write ctrlIndex v := by
  cases x with
  | write i w =>
    simp only [HostTxn.ctrlWord, Option.ite_none_right_eq_some, Option.some.injEq] at h
    rw [h.1, h.2]
  | _ => cases h

theorem turned_cases {x : Turn} {rest : List Turn} (h : turned s x rest = t) : TurnCase (s.beginTurn x rest) x t := by
  subst h
  unfold turned
  split
  · split
    · exact .command _ (ctrlWord_eq_some ‹_›)
    · exact .illegal (ctrlWord_eq_some ‹_›)
  · exact .transact ‹_›

/-! ### NUM stays -/

theorem begun_num (c : Instr) (s : State) : (begun c s).num = s.num := by
  have hstart (n : Nat) (ph : Phase) : (s.startCounted n ph).num = s.num :=
    startCounted_keeps (P := fun u => u.num = s.num) n ph rfl (load_num _ _ _)
  cases c with
  | mod n => exact hstart _ _
  | demod n => exact hstart _ _
  | rsAdv n => exact hstart _ _
  | send => exact load_num _ _ _
  | recv => exact load_num _ _ _
  | _ => rfl

theorem transact_num (s : State) (x : HostTxn) : (s.transact x).num = s.num := by
  generalize h : s.transact x = t
  cases transact_cases h with
  | write hw => cases hw <;> rfl
  | port => rfl
  | reset => rfl

/-- No step changes the arithmetic NUM (00_scope.md R9). -/
theorem step_num (hs : step s = .next t) : t.num = s.num :=
  step_keeps (P := fun u => u.num = s.num) (fun _ _ _ h => h) (fun u x h => (transact_num u x).trans h)
    (issued_keeps (fun _ h => h) (fun _ _ h => h) (fun _ _ h => h) (fun _ h => h) fun u c h => (begun_num c u).trans h)
    (issueIllegal_keeps (fun _ h => h) (fun _ _ h => h) fun _ _ h => h)
    (fun _ _ h he => (keepsSetup_engineStep he).num.trans h) rfl hs

end

end Sys2Proof.Machine
end

section
/-! PROOFS. RS_POS, RS_RATIO and CLK_FREQ mirror the resampler in every step (10_state.md R49, R51). -/

namespace Sys2Proof.Machine

section
variable {s t u : State}

/-- The progress registers after reset show the resampler after reset. -/
theorem mirrors_of_init (hreg : s.reg = .init) (hrs : s.rs = .init) : s.Mirrors := by
  have hpos : Progress.init.rsPos = bits64 Resampler.init.pos := by decide +kernel
  have hratio : Progress.init.rsRatio = bits64 Resampler.init.ratio := by decide +kernel
  have hfreq : Progress.init.clkFreq = bits64 0 := by decide +kernel
  constructor <;> rw [hreg, hrs]
  · exact hpos
  · exact hratio
  · exact .inr ⟨rfl, hfreq⟩

theorem mirrors_setPos (h : s.Mirrors) (q : Scalar) : (s.setPos q).Mirrors := ⟨rfl, h.ratio, h.freq⟩

theorem mirrors_setRatio (h : s.Mirrors) (q : Scalar) : (s.setRatio q).Mirrors := ⟨h.pos, rfl, .inl rfl⟩

theorem mirrors_setPhase (h : s.Mirrors) (q : Scalar) : (s.setPhase q).Mirrors := { h with }

theorem mirrors_endWith (h : s.Mirrors) (c : Cause) : (s.endWith c).Mirrors := { h with }

theorem mirrors_load (h : s.Mirrors) (todo : List Act) (ph : Phase) : (s.load todo ph).Mirrors := by
  rw [load_frame]; exact { h with }

theorem mirrors_popSample {recv : Bool} {x : Option Scalar} (h : s.Mirrors) (hp : s.popSample recv = .got x t) :
    t.Mirrors := by
  rw [popSample_frame hp]; exact { h with }

theorem mirrors_phaseEffect {ph : Phase} (he : PhaseEffect s ph u) (h : s.Mirrors) : u.Mirrors := by
  cases he with
  | unit hp => exact mirrors_popSample h hp
  | sample hp => exact { mirrors_popSample h hp with }
  | resample => exact mirrors_setPos h _
  | calibrate => exact ⟨rfl, rfl, .inl rfl⟩
  | _ => exact { h with }

theorem mirrors_perform {a : Act} (hp : s.perform a = some t) (h : s.Mirrors) : t.Mirrors := by
  cases perform_cases hp with
  | track => exact mirrors_setPhase (mirrors_setRatio (mirrors_setPos h _) _) _
  | _ => exact { h with }

theorem mirrors_begun (h : s.Mirrors) (c : Instr) : (begun c s).Mirrors := by
  have hstart (n : Nat) (ph : Phase) : (s.startCounted n ph).Mirrors :=
    startCounted_keeps n ph (mirrors_endWith h _) (mirrors_load h _ _)
  cases c with
  | nop => exact mirrors_endWith h _
  | srst => exact mirrors_of_init rfl rfl
  | calClear => exact { h with }
  | send => exact mirrors_load h _ _
  | recv => exact mirrors_load (s := s.recvStart) { h with } _ _
  | mod n => exact hstart n _
  | demod n => exact hstart n _
  | rsInit => exact ⟨rfl, rfl, .inl rfl⟩
  | rsRatio => exact mirrors_endWith (mirrors_setRatio h _) _
  | rsAdv n => exact hstart n _

theorem mirrors_transact {x : HostTxn} (hx : s.transact x = t) (h : s.Mirrors) : t.Mirrors := by
  cases transact_cases hx with
  | write hw => cases hw <;> exact { h with }
  | port => exact { h with }
  | reset => exact mirrors_of_init rfl rfl

theorem mirrors_step (hs : step s = .next t) (h : s.Mirrors) : t.Mirrors :=
  have hreject (s : State) (h : s.Mirrors) : s.reject.Mirrors := { h with }
  have haccept (s : State) (c : Instr) (h : s.Mirrors) : (s.accept c).Mirrors := { h with }
  have hend (s : State) (c : Cause) (h : s.Mirrors) : (s.endWith c).Mirrors := mirrors_endWith h c
  step_keeps (P := State.Mirrors) (fun _ _ _ h => { h with }) (fun _ _ h => mirrors_transact rfl h)
    (issued_keeps hreject haccept hend (fun _ _ => mirrors_of_init rfl rfl) fun _ c h => mirrors_begun h c)
    (issueIllegal_keeps hreject haccept hend)
    (engineStep_keeps (fun _ todo ph h => mirrors_load h todo ph) hend (fun _ _ _ he h => mirrors_phaseEffect he h)
      fun _ _ _ hp h => mirrors_perform hp h) h hs

/-- Settles O50: every update of the resampler writes its mirrors in the same step. -/
theorem stepKeepsMirrors : Obligations.StepKeepsMirrors := by
  unfold Obligations.StepKeepsMirrors
  intro s t h hs
  have ht := mirrors_step hs h
  refine ⟨ht, fun hex => ?_⟩
  obtain hfreq | ⟨hone, hfreq⟩ := ht.freq
  · rw [hfreq, step_num hs, hex.sub]
  · rw [hfreq, hone, sub_self]

end

end Sys2Proof.Machine
end

section
/-! PROOFS. The register tables stay canonical (log entry 4) and no port exceeds its capacity (10_state.md R60;
20_memory.md R106, R108). -/

namespace Sys2Proof.Machine

section
variable {s t u : State}

/-! ### Tables -/

/-- The tables depend on configuration and CAL alone. -/
theorem tablesCanonical_congr (hcfg : t.cfg = s.cfg) (hcal : t.cal = s.cal) (h : s.TablesCanonical) :
    t.TablesCanonical := by
  obtain ⟨hbin, hphref, hre, him, htrain, hcre, hcim⟩ := h
  constructor <;> simpa only [hcfg, hcal]

theorem tablesCanonical_of_init (hcfg : s.cfg = .init) (hcal : s.cal = .init) : s.TablesCanonical :=
  tablesCanonical_congr (s := { s with cfg := .init, cal := .init }) hcfg hcal ⟨rfl, rfl, rfl, rfl, rfl, rfl, rfl⟩

theorem wf_storeGains {c : Cal} (hre : Table.wf f64One c.re = true) (him : Table.wf 0 c.im = true) (k : Nat)
    (gains : List Cx) :
    Table.wf f64One (c.storeGains k gains).re = true ∧ Table.wf 0 (c.storeGains k gains).im = true := by
  induction gains generalizing c k with
  | nil => exact ⟨hre, him⟩
  | cons g gs ih => exact ih (Table.wf_put k _ hre) (Table.wf_put k _ him) (k + 1)

theorem tablesCanonical_store (h : s.TablesCanonical) (r : Reg) (v : Word) :
    (s.stored r v).TablesCanonical := by
  cases r with
  | cfgBin k => exact { h with bin := Table.wf_put k _ h.bin }
  | cfgPhref k => exact { h with phref := Table.wf_put k _ h.phref }
  | cfgConstRe i => exact { h with constRe := Table.wf_put i _ h.constRe }
  | cfgConstIm i => exact { h with constIm := Table.wf_put i _ h.constIm }
  | cfgTrain i k => exact { h with train := Table.wf_put _ _ h.train }
  | calRe k => exact { h with calRe := Table.wf_put k _ h.calRe }
  | calIm k => exact { h with calIm := Table.wf_put k _ h.calIm }
  | _ => exact { h with }

theorem tablesCanonical_engineStep (he : s.engineStep = some t) (h : s.TablesCanonical) : t.TablesCanonical := by
  have hcfg := (keepsSetup_engineStep he).cfg
  obtain hcal | ⟨-, gains, hcal⟩ := engineStep_cal he
  · exact tablesCanonical_congr hcfg hcal h
  · obtain ⟨hre, him⟩ := wf_storeGains h.calRe h.calIm 0 gains
    exact tablesCanonical_congr (s := { s with cal := t.cal }) hcfg rfl
      { h with calRe := hcal ▸ hre, calIm := hcal ▸ him }

theorem tablesCanonical_begun (h : s.TablesCanonical) (c : Instr) : (begun c s).TablesCanonical := by
  have hload (todo : List Act) (ph : Phase) : (s.load todo ph).TablesCanonical :=
    tablesCanonical_congr (load_cfg _ _ _) (load_cal _ _ _) h
  have hstart (n : Nat) (ph : Phase) : (s.startCounted n ph).TablesCanonical :=
    startCounted_keeps n ph { h with } (hload _ _)
  cases c with
  | calClear => exact { h with calRe := Table.wf_resetBelow _ h.calRe, calIm := Table.wf_resetBelow _ h.calIm }
  | send => exact hload _ _
  | recv => exact tablesCanonical_congr (s := s) (load_cfg _ _ _) (load_cal _ _ _) h
  | mod n => exact hstart n _
  | demod n => exact hstart n _
  | rsAdv n => exact hstart n _
  | _ => exact { h with }

theorem tablesCanonical_transact {x : HostTxn} (hx : s.transact x = t) (h : s.TablesCanonical) : t.TablesCanonical := by
  cases transact_cases hx with
  | write hw =>
    cases hw with
    | stored r => exact tablesCanonical_store h r _
    | _ => exact { h with }
  | port => exact { h with }
  | reset => exact tablesCanonical_of_init rfl rfl

theorem tablesCanonical_step (hs : step s = .next t) (h : s.TablesCanonical) : t.TablesCanonical := by
  have haccept (s : State) (c : Instr) (h : s.TablesCanonical) : (s.accept c).TablesCanonical := { h with }
  have hend (s : State) (c : Cause) (h : s.TablesCanonical) : (s.endWith c).TablesCanonical := { h with }
  exact step_keeps (P := State.TablesCanonical) (fun _ _ _ h => { h with })
    (fun _ _ h => tablesCanonical_transact rfl h)
    (issued_keeps (fun _ h => { h with }) haccept hend (fun _ h => { h with }) fun _ c h => tablesCanonical_begun h c)
    (issueIllegal_keeps (fun _ h => { h with }) haccept hend) (fun _ _ h he => tablesCanonical_engineStep he h) h hs

/-! ### Ports -/

/-- A port with a unit taken is within its capacity. -/
theorem length_le_of_eq_cons {α : Type} {x : α} {l rest : List α} {n : Nat} (hl : l = x :: rest) (hn : l.length ≤ n) :
    rest.length ≤ n := by
  rw [hl] at hn
  exact (Nat.le_succ _).trans hn

theorem portsBounded_of_init (hport : s.port = .init) : s.PortsBounded := by
  constructor <;> (rw [hport]; exact Nat.zero_le _)

theorem portsBounded_load (h : s.PortsBounded) (todo : List Act) (ph : Phase) : (s.load todo ph).PortsBounded := by
  rw [load_frame]; exact { h with }

theorem portsBounded_popSmp {recv : Bool} {x : SampleUnit} (hp : s.popSmp recv = .got x t) (h : s.PortsBounded) :
    t.PortsBounded := by
  cases recv with
  | false =>
    obtain ⟨hin, ht⟩ := popSmp_got hp
    rw [ht]
    exact { h with smpIn := length_le_of_eq_cons hin h.smpIn }
  | true =>
    obtain ⟨hin, hdump, hroom, ht⟩ := popSmp_recv_got hp
    have hdump_le : t.port.dump.length ≤ s.par.depth.dump := by
      rw [hdump]
      split
      · simpa using hroom ‹_›
      · exact h.dump
    rw [ht]
    exact { h with smpIn := length_le_of_eq_cons hin h.smpIn, dump := hdump_le }

theorem portsBounded_popSample {recv : Bool} {x : Option Scalar} (hp : s.popSample recv = .got x t)
    (h : s.PortsBounded) : t.PortsBounded := by
  obtain ⟨v, t₀, hv, ht⟩ := popSample_got hp
  have h₀ := portsBounded_popSmp hv h
  obtain ⟨-, -, rfl⟩ | ⟨-, -, -, rfl⟩ | ⟨-, lo, -, -, rfl⟩ := ht <;> exact { h₀ with }

theorem portsBounded_phaseEffect {ph : Phase} (he : PhaseEffect s ph u) (h : s.PortsBounded) : u.PortsBounded := by
  cases he with
  | unit hp => exact portsBounded_popSample hp h
  | sample hp => exact { portsBounded_popSample hp h with }
  | symbol hin => exact { h with symIn := length_le_of_eq_cons hin h.symIn }
  | byte tx hin => exact { h with byteIn := length_le_of_eq_cons hin h.byteIn }
  | _ => exact { h with }

theorem portsBounded_perform {a : Act} (hp : s.perform a = some t) (h : s.PortsBounded) : t.PortsBounded := by
  cases perform_cases hp with
  | pushSmp _ hroom => exact { h with smpOut := by simpa using hroom }
  | pushSym _ hroom => exact { h with symOut := by simpa using hroom }
  | pushByte _ hroom => exact { h with byteOut := by simpa using hroom }
  | clearByteIn => exact { h with byteIn := Nat.zero_le _ }
  | clearSmpIn => exact { h with smpIn := Nat.zero_le _ }
  | _ => exact { h with }

theorem portsBounded_begun (h : s.PortsBounded) (c : Instr) : (begun c s).PortsBounded := by
  have hstart (n : Nat) (ph : Phase) : (s.startCounted n ph).PortsBounded :=
    startCounted_keeps n ph { h with } (portsBounded_load h _ _)
  cases c with
  | srst => exact portsBounded_of_init rfl
  | send => exact portsBounded_load h _ _
  | recv => exact portsBounded_load (s := s.recvStart) { h with } _ _
  | mod n => exact hstart n _
  | demod n => exact hstart n _
  | rsAdv n => exact hstart n _
  | _ => exact { h with }

/-- A host pop takes the oldest unit of an output port, or is not performed. -/
theorem portsBounded_hostPop (h : s.PortsBounded) (p : OutPort) : (s.hostPop p).PortsBounded := by
  cases p with
  | byteOut =>
    dsimp only [State.hostPop]
    split
    · exact { h with }
    · exact { h with byteOut := length_le_of_eq_cons ‹_› h.byteOut }
  | smpOut =>
    dsimp only [State.hostPop]
    split
    · exact { h with }
    · exact { h with smpOut := length_le_of_eq_cons ‹_› h.smpOut }
  | symOut =>
    dsimp only [State.hostPop]
    split
    · exact { h with }
    · exact { h with symOut := length_le_of_eq_cons ‹_› h.symOut }
  | dump =>
    dsimp only [State.hostPop]
    split
    · exact { h with }
    · exact { h with dump := length_le_of_eq_cons ‹_› h.dump }

theorem portsBounded_transact (h : s.PortsBounded) (x : HostTxn) : (s.transact x).PortsBounded := by
  cases x with
  | write i v =>
    generalize hw : s.transact (.write i v) = t
    cases memWrite_cases hw <;> exact { h with }
  | pushByte b =>
    dsimp only [State.transact, State.hostPushByte]
    split
    case isTrue hroom => exact { h with byteIn := by simpa using hroom.1 }
    case isFalse => exact { h with }
  | pushSmp b =>
    dsimp only [State.transact, State.hostPushSmp]
    split
    case isTrue hroom => exact { h with smpIn := by simpa using hroom.1 }
    case isFalse => exact { h with }
  | pushSym b =>
    dsimp only [State.transact, State.hostPushSym]
    split
    case isTrue hroom => exact { h with symIn := by simpa using hroom.1 }
    case isFalse => exact { h with }
  | eos p => cases p <;> exact { h with }
  | pop p => exact portsBounded_hostPop h p
  | reset => exact portsBounded_of_init rfl
  | _ => exact { h with }

theorem portsBounded_step (hs : step s = .next t) (h : s.PortsBounded) : t.PortsBounded := by
  have hend (s : State) (c : Cause) (h : s.PortsBounded) : (s.endWith c).PortsBounded := { h with }
  have haccept (s : State) (c : Instr) (h : s.PortsBounded) : (s.accept c).PortsBounded := { h with }
  exact step_keeps (P := State.PortsBounded) (fun _ _ _ h => { h with }) (fun _ x h => portsBounded_transact h x)
    (issued_keeps (fun _ h => { h with }) haccept hend (fun _ _ => portsBounded_of_init rfl)
      fun _ c h => portsBounded_begun h c)
    (issueIllegal_keeps (fun _ h => { h with }) haccept hend)
    (engineStep_keeps (fun _ todo ph h => portsBounded_load h todo ph) hend
      (fun _ _ _ he h => portsBounded_phaseEffect he h) fun _ _ _ hp h => portsBounded_perform hp h) h hs

/-- Settles O51: table writes keep the canonical form, and a port grows only where it has room. -/
theorem stepKeepsTablesAndPorts : Obligations.StepKeepsTablesAndPorts := by
  unfold Obligations.StepKeepsTablesAndPorts
  exact fun s t htables hports hs => ⟨tablesCanonical_step hs htables, portsBounded_step hs hports⟩

end

end Sys2Proof.Machine
end

section
/-! PROOFS. BUSY, DONE, RESULT and CAUSE agree, and no turn but a reset takes both BUSY and DONE away (10_state.md R43;
60_exceptions.md R370, R374). -/

namespace Sys2Proof.Machine

section
variable {s t u : State}

/-! ### DONE, RESULT and CAUSE -/

theorem statusConsistent_endWith (s : State) (c : Cause) : (s.endWith c).StatusConsistent := .inr ⟨rfl, rfl, rfl⟩

theorem statusConsistent_accept (s : State) (c : Instr) : (s.accept c).StatusConsistent := .inl ⟨rfl, rfl, rfl⟩

/-- BUSY, DONE, RESULT and CAUSE say whether they agree; REJ, WIGN and RXSTATE do not. -/
theorem statusConsistent_congr (hst : t.st = { s.st with rej := t.st.rej, wign := t.st.wign, rx := t.st.rx })
    (hbusy : t.busy = s.busy) (h : s.StatusConsistent) : t.StatusConsistent := by
  unfold State.StatusConsistent
  rw [hst, hbusy]
  exact h

theorem statusConsistent_load (h : s.StatusConsistent) (todo : List Act) (ph : Phase) :
    (s.load todo ph).StatusConsistent :=
  statusConsistent_congr (by simp) (by simp) h

theorem statusConsistent_engineStep (he : s.engineStep = some t) (h : s.StatusConsistent) : t.StatusConsistent := by
  refine engineStep_keeps (P := State.StatusConsistent) (fun s todo ph h => statusConsistent_load h todo ph)
    (fun s c _ => statusConsistent_endWith s c) (fun s ph u he h => ?_) (fun s a t hp h => ?_) s t h he
  · obtain ⟨heng, hst⟩ := phaseEffect_control he
    exact statusConsistent_congr (by rw [hst]) (busy_congr heng) h
  · obtain ⟨c, -, rfl⟩ | ⟨heng, -, hst⟩ := perform_control hp
    · exact statusConsistent_endWith s c
    · exact statusConsistent_congr (by rw [hst]) (busy_congr heng) h

theorem statusConsistent_begun (h : s.StatusConsistent) (c : Instr) : (begun c s).StatusConsistent := by
  have hstart (n : Nat) (ph : Phase) : (s.startCounted n ph).StatusConsistent :=
    startCounted_keeps n ph (statusConsistent_endWith s _) (statusConsistent_load h _ _)
  cases c with
  | send => exact statusConsistent_load h _ _
  | recv => exact statusConsistent_load (s := s.recvStart) h _ _
  | mod n => exact hstart n _
  | demod n => exact hstart n _
  | rsAdv n => exact hstart n _
  | _ => exact statusConsistent_endWith _ _

theorem statusConsistent_transact {x : HostTxn} (hx : s.transact x = t) (h : s.StatusConsistent) :
    t.StatusConsistent := by
  cases transact_cases hx with
  | write hw => cases hw <;> exact statusConsistent_congr (s := s) rfl rfl h
  | port => exact h
  | reset => exact .inl ⟨rfl, rfl, rfl⟩

theorem statusConsistent_step (hs : step s = .next t) (h : s.StatusConsistent) : t.StatusConsistent :=
  step_keeps (P := State.StatusConsistent) (fun _ _ _ h => h) (fun _ _ h => statusConsistent_transact rfl h)
    (issued_keeps (fun _ h => h) (fun s c _ => statusConsistent_accept s c) (fun s c _ => statusConsistent_endWith s c)
      (fun _ h => h) fun _ c h => statusConsistent_begun h c)
    (issueIllegal_keeps (fun _ h => h) (fun s c _ => statusConsistent_accept s c)
      fun s c _ => statusConsistent_endWith s c)
    (fun _ _ h he => statusConsistent_engineStep he h) h hs

/-! ### No BUSY = 0 with DONE = 0 after an accepted command -/

/-- STATUS shows that a command executes or has ended (60_exceptions.md R374). -/
def State.ShowsCommand (s : State) : Prop := s.busy = true ∨ s.st.done = true

theorem showsCommand_congr (hbusy : t.busy = s.busy) (hdone : t.st.done = s.st.done) (h : s.ShowsCommand) :
    t.ShowsCommand := by
  unfold State.ShowsCommand
  rwa [hbusy, hdone]

theorem showsCommand_engineStep (he : s.engineStep = some t) (h : s.ShowsCommand) : t.ShowsCommand := by
  refine engineStep_keeps (P := State.ShowsCommand) (fun s todo ph h => showsCommand_congr (by simp) (by simp) h)
    (fun s c _ => .inr rfl) (fun s ph u he h => ?_) (fun s a t hp h => ?_) s t h he
  · obtain ⟨heng, hst⟩ := phaseEffect_control he
    exact showsCommand_congr (busy_congr heng) (by rw [hst]) h
  · obtain ⟨c, -, rfl⟩ | ⟨heng, -, hst⟩ := perform_control hp
    · exact .inr rfl
    · exact showsCommand_congr (busy_congr heng) (by rw [hst]) h

theorem showsCommand_begun (h : s.busy = true) (c : Instr) : (begun c s).ShowsCommand := by
  have hload (todo : List Act) (ph : Phase) : (s.load todo ph).ShowsCommand := .inl (by simpa)
  have hstart (n : Nat) (ph : Phase) : (s.startCounted n ph).ShowsCommand :=
    startCounted_keeps n ph (.inr rfl) (hload _ _)
  cases c with
  | send => exact hload _ _
  | recv => exact .inl ((load_busy _ _ _).trans h)
  | mod n => exact hstart n _
  | demod n => exact hstart n _
  | rsAdv n => exact hstart n _
  | _ => exact .inr rfl

/-- Every word written to CTRL leaves BUSY or DONE set. -/
theorem showsCommand_issued (s : State) (i : Instr) : (issued i s).ShowsCommand := by
  generalize h : issued i s = t
  cases issued_cases h with
  | abort => exact .inr rfl
  | reject hb => exact .inl hb
  | bad => exact .inr rfl
  | begin => exact showsCommand_begun rfl i

theorem showsCommand_issueIllegal (s : State) : s.issueIllegal.ShowsCommand := by
  generalize h : s.issueIllegal = t
  cases issueIllegal_cases h with
  | reject hb => exact .inl hb
  | ends => exact .inr rfl

theorem showsCommand_transact {x : HostTxn} (hx : x ≠ .reset) (h : s.ShowsCommand) : (s.transact x).ShowsCommand := by
  generalize ht : s.transact x = t
  cases transact_cases ht with
  | write hw => cases hw <;> exact h
  | port => exact h
  | reset => exact absurd rfl hx

theorem showsCommand_step (hs : step s = .next t) (hx : ∀ x rest, s.sched = x :: rest → x.txn ≠ .reset)
    (h : s.ShowsCommand) : t.ShowsCommand := by
  have hrun (k : Nat) {u : State} : u.ShowsCommand → (State.runEngine k u).ShowsCommand :=
    runEngine_keeps (fun _ _ h he => showsCommand_engineStep he h) k
  cases hsch : s.sched with
  | nil => rw [step_nil hsch] at hs; cases hs; exact hrun _ h
  | cons x rest =>
    rw [step_cons hsch] at hs
    cases hs
    refine hrun _ ?_
    generalize hu : turned s x rest = u
    cases turned_cases hu with
    | command i => exact showsCommand_issued _ i
    | illegal => exact showsCommand_issueIllegal _
    | transact => exact showsCommand_transact (s := s.beginTurn x rest) (hx x rest hsch) h

theorem showsCommand_ctrlWrite (hs : step s = .next t) {x : Turn} {rest : List Turn} {v : Word}
    (hsch : s.sched = x :: rest) (hx : x.txn = .write ctrlIndex v) : t.ShowsCommand := by
  rw [step_cons hsch] at hs
  cases hs
  refine runEngine_keeps (fun _ _ h he => showsCommand_engineStep he h) _ ?_
  generalize hu : turned s x rest = u
  cases turned_cases hu with
  | command i => exact showsCommand_issued _ i
  | illegal => exact showsCommand_issueIllegal _
  | transact hno => rw [hx] at hno; cases hno

/-- Settles O52: an end sets the four fields together, and nothing but a reset takes both BUSY and DONE away. -/
theorem stepKeepsStatus : Obligations.StepKeepsStatus := by
  unfold Obligations.StepKeepsStatus
  exact fun s t h hs => ⟨statusConsistent_step hs h, showsCommand_step hs,
    fun ⟨x, rest, v, hsch, hx⟩ => showsCommand_ctrlWrite hs hsch hx⟩

end

end Sys2Proof.Machine
end

section
/-! PROOFS. The engine stands in its command's rule, and RXSTATE shows where RECV stands (10_state.md R54, R55, R85;
44_frame_rx.md R324). -/

namespace Sys2Proof.Machine

section
variable {s t u : State} {c : Instr} {todo todo' : List Act} {ph ph' : Phase}

theorem engineConsistent_idle (he : s.eng = .idle) : s.EngineConsistent ↔ s.st.rx.active = false := by
  unfold State.EngineConsistent; rw [he]

theorem engineConsistent_recv (he : s.eng = .run .recv todo ph) : s.EngineConsistent ↔ recvPlace s.st.rx todo ph := by
  unfold State.EngineConsistent; rw [he]

theorem engineConsistent_other (hc : c ≠ .recv) (he : s.eng = .run c todo ph) :
    s.EngineConsistent ↔ s.st.rx.active = false ∧ otherPlace c todo ph := by
  unfold State.EngineConsistent; rw [he]
  split <;> simp_all

theorem engineConsistent_congr (heng : t.eng = s.eng) (hrx : t.st.rx = s.st.rx) (h : s.EngineConsistent) :
    t.EngineConsistent := by
  unfold State.EngineConsistent
  rw [heng, hrx]
  exact h

theorem engineConsistent_endWith (h : s.st.rx.active = false) (e : Cause) : (s.endWith e).EngineConsistent := h

/-! ### RECV -/

theorem engineConsistent_loadRecv (he : s.eng = .run .recv todo ph) (h : recvPlace s.st.rx todo' ph') :
    (s.load todo' ph').EngineConsistent := by
  rw [engineConsistent_recv (load_eng he _ _), load_st]
  exact h

theorem engineConsistent_loadRxEnd (he : s.eng = .run .recv todo ph) (h : s.st.rx.active = true)
    (e : RxState × Cause) (hmem : e ∈ recvEnds) : (s.load (rxEnd e.1 e.2) .closing).EngineConsistent :=
  engineConsistent_loadRecv he ⟨e, hmem, .inl ⟨h, rfl⟩⟩

theorem recvEnds_inactive : ∀ e ∈ recvEnds, e.1.active = false := by decide

/-- RECV's phases follow the transition table (44_frame_rx.md R324). -/
theorem engineConsistent_stepRecv (he : s.eng = .run .recv [] ph) (hp : recvPlace s.st.rx [] ph)
    (h : s.stepPhase ph = some t) : t.EngineConsistent := by
  have hstay {recv : Bool} {i : Int} {v : State} (hf : s.fetch recv i = .progress v) : v.EngineConsistent :=
    engineConsistent_congr (fetch_control hf).1 (by rw [(fetch_control hf).2]) ((engineConsistent_recv he).2 hp)
  cases ph with
  | skip left =>
    obtain ⟨hrx, -⟩ := hp
    cases left with
    | zero => cases h; exact engineConsistent_loadRecv (s := { s with rx := _ }) he ⟨hrx, rfl⟩
    | succ left =>
      simp only [State.stepPhase, State.stepSkip] at h
      split at h <;> cases h
      · exact engineConsistent_loadRxEnd he (by rw [hrx]; rfl) (.noCarrier, .noCarrier) (by decide)
      · next hf =>
        obtain ⟨heng, hst, -⟩ := popSample_control hf
        exact engineConsistent_congr heng (by rw [hst]) ((engineConsistent_recv he).2 ⟨hrx, rfl⟩)
      · next hf =>
        obtain ⟨heng, hst, -⟩ := popSample_control hf
        exact engineConsistent_loadRecv (heng.trans he) ⟨by rw [hst, hrx], rfl⟩
  | search =>
    obtain ⟨hrx, -⟩ := hp
    have hend : s.endNoCarrier.EngineConsistent :=
      engineConsistent_loadRxEnd he (by rw [hrx]; rfl) (.noCarrier, .noCarrier) (by decide)
    simp only [State.stepPhase, State.stepSearch] at h
    split at h
    · cases h; exact hend
    · split at h
      · cases h
      · cases h; exact hend
      · cases h; exact hstay ‹_›
      · split at h <;> cases h
        · exact engineConsistent_loadRecv (s := { s with rx := _ }) he ⟨hrx, rfl⟩
        · exact (engineConsistent_recv he).2 ⟨hrx, rfl⟩
  | refine =>
    obtain ⟨hrx, -⟩ := hp
    have hpeak : s.peakFound.EngineConsistent :=
      engineConsistent_loadRecv (s := { s with reg := _, st := { s.st with rx := .calibrating } }) he ⟨rfl, rfl⟩
    simp only [State.stepPhase, State.stepRefine] at h
    split at h
    · cases h; exact hpeak
    · split at h
      · cases h
      · cases h; exact hpeak
      · cases h; exact hstay ‹_›
      · split at h <;> cases h <;> exact (engineConsistent_recv he).2 ⟨hrx, rfl⟩
  | calibrate =>
    simp only [State.stepPhase, State.stepCalibrate, Option.some.injEq] at h
    rw [← h]
    exact engineConsistent_loadRecv (todo := []) (ph := .calibrate) he ⟨rfl, .inl rfl⟩
  | receive win =>
    obtain ⟨hrx, -⟩ := hp
    simp only [State.stepPhase, State.stepReceive] at h
    split at h
    · cases h
    · cases h; exact engineConsistent_loadRxEnd he (by rw [hrx]; rfl) (.truncated, .truncated) (by decide)
    · cases h; exact hstay ‹_›
    · split at h <;> cases h
      · exact engineConsistent_loadRecv (s := s.rsStep) he ⟨hrx, .inr (.inl rfl)⟩
      · exact engineConsistent_loadRecv (s := s.rsStep) he ⟨hrx, .inl rfl⟩
  | rxBits bits pilot =>
    obtain ⟨hrx, -⟩ := hp
    simp only [State.stepPhase, State.stepRxBits] at h
    split at h
    · cases h; exact engineConsistent_loadRecv he (.inr ⟨hrx, .inr ⟨pilot, rfl⟩⟩)
    · cases bits with
      | nil => cases h; exact engineConsistent_loadRecv he ⟨hrx, .inr ⟨pilot, rfl⟩⟩
      | cons b rest =>
        cases h
        refine engineConsistent_loadRecv (s := { s with rx := _ }) he ⟨hrx, ?_⟩
        cases (s.rx.rxBit b).2 with
        | none => exact .inl rfl
        | some v => exact .inr (.inr (.inr ⟨v, rfl⟩))
  | confirm left =>
    obtain ⟨hrx, -⟩ | ⟨-, hno | ⟨z, hno⟩⟩ := hp
    · cases left with
      | zero => cases h; exact engineConsistent_loadRxEnd he (by rw [hrx]; rfl) (.done, .none) (by decide)
      | succ left =>
        simp only [State.stepPhase, State.stepConfirm] at h
        split at h <;> cases h
        · exact engineConsistent_loadRxEnd he (by rw [hrx]; rfl) (.truncated, .truncated) (by decide)
        · exact hstay ‹_›
        · exact engineConsistent_loadRecv (s := s.rsStep) he (.inl ⟨hrx, rfl⟩)
    · cases hno
    · cases hno
  | closing => cases h
  | _ => exact hp.elim

/-- The actions RECV has fixed take RXSTATE through the transition table (44_frame_rx.md R320 to R324). -/
theorem engineConsistent_performRecv {a : Act} {rest : List Act} (he : s.eng = .run .recv (a :: rest) ph)
    (hp : recvPlace s.st.rx (a :: rest) ph) (h : (s.load rest ph).perform a = some t) : t.EngineConsistent := by
  have hplace (hfin : ∀ e, a ≠ .finish e) (hrx : recvPlace (a.nextRx s.st.rx) rest ph) : t.EngineConsistent := by
    obtain ⟨e, ha, -⟩ | ⟨heng, -, hst⟩ := perform_control h
    · exact absurd ha (hfin e)
    · rw [engineConsistent_recv (heng.trans (load_eng he rest ph)), hst, load_st]
      exact hrx
  cases ph with
  | receive win =>
    obtain ⟨hrx, hno | ⟨z, ha⟩⟩ := hp
    · cases hno
    · cases ha; exact hplace nofun ⟨hrx, .inl rfl⟩
  | rxBits bits pilot =>
    obtain ⟨hrx, hno | ha | ha | ⟨b, ha⟩⟩ := hp
    · cases hno
    · cases ha; exact hplace nofun ⟨hrx, .inl rfl⟩
    · cases ha; exact hplace nofun ⟨hrx, .inl rfl⟩
    · cases ha; exact hplace nofun ⟨hrx, .inr (.inr (.inl rfl))⟩
  | confirm left =>
    obtain ⟨-, hno⟩ | ⟨hrx, ha | ⟨z, ha⟩⟩ := hp
    · cases hno
    · cases ha; exact hplace nofun (.inl ⟨rfl, rfl⟩)
    · cases ha; exact hplace nofun (.inr ⟨hrx, .inl rfl⟩)
  | closing =>
    obtain ⟨e, hmem, ⟨-, ha⟩ | ⟨hrx, ha⟩ | ⟨hrx, ha⟩⟩ := hp
    · cases ha; exact hplace nofun ⟨e, hmem, .inr (.inl ⟨rfl, rfl⟩)⟩
    · cases ha; exact hplace nofun ⟨e, hmem, .inr (.inr ⟨hrx, rfl⟩)⟩
    · cases ha
      cases h
      exact engineConsistent_endWith (by rw [load_st, hrx]; exact recvEnds_inactive e hmem) _
  | skip => cases hp.2
  | search => cases hp.2
  | refine => cases hp.2
  | calibrate => cases hp.2
  | _ => exact hp.elim

/-! ### The other commands -/

/-- A command that pushes samples: any but DEMOD (42_demodulator.md R220). -/
def PushesSamples (c : Instr) : Prop := ∀ u, (Act.pushSmp u).belongs c = true

theorem pushSampleActs_belong (hc : PushesSamples c) (s : State) (x : Scalar) :
    (s.pushSampleActs x).all (Act.belongs c) = true := by
  rw [State.pushSampleActs, List.all_map]
  exact List.all_eq_true.2 fun u _ => hc u

theorem emitSamples_belong (hc : PushesSamples c) (s : State) (xs : List Scalar) :
    (s.emitSamples xs).all (Act.belongs c) = true := by
  simp only [State.emitSamples, List.all_flatMap, List.all_append, pushSampleActs_belong hc]
  exact List.all_eq_true.2 fun _ _ => rfl

theorem flatMap_emitBlock_belong (hc : PushesSamples c) (s : State) (bs : List (List Bool)) :
    (bs.flatMap s.emitBlock).all (Act.belongs c) = true := by
  simp only [List.all_flatMap, List.all_eq_true (l := bs)]
  exact fun b _ => emitSamples_belong hc s _

theorem modBlockActs_belong (hc : PushesSamples c) (s : State) (syms : List Cx) :
    (s.modBlockActs syms).all (Act.belongs c) = true := by
  simp only [State.modBlockActs, List.all_append, List.all_flatMap, pushSampleActs_belong hc]
  exact Bool.and_eq_true_iff.2 ⟨List.all_eq_true.2 fun _ _ => rfl, rfl⟩

theorem demodBlockActs_belong (n : Nat) (s : State) (v : List Cx) :
    (s.demodBlockActs v).all (Act.belongs (.demod n)) = true := by
  simp [State.demodBlockActs, Act.belongs]

theorem belongs_adv {left : Nat} (h : (Phase.adv left).belongs c = true) : ∃ n, c = .rsAdv n := by
  cases c with
  | rsAdv n => exact ⟨n, rfl⟩
  | _ => cases h

theorem belongs_mod {left : Nat} {syms : List Cx} (h : (Phase.mod left syms).belongs c = true) : ∃ n, c = .mod n := by
  cases c with
  | mod n => exact ⟨n, rfl⟩
  | _ => cases h

theorem belongs_demod {left : Nat} {win : List Scalar} (h : (Phase.demod left win).belongs c = true) :
    ∃ n, c = .demod n := by
  cases c with
  | demod n => exact ⟨n, rfl⟩
  | _ => cases h

theorem engineConsistent_loadOther (hc : c ≠ .recv) (he : s.eng = .run c todo ph) (hrx : s.st.rx.active = false)
    (hplace : otherPlace c todo' ph') : (s.load todo' ph').EngineConsistent := by
  rw [engineConsistent_other hc (load_eng he _ _), load_st]
  exact ⟨hrx, hplace⟩

theorem engineConsistent_stepOther (hc : c ≠ .recv) (he : s.eng = .run c [] ph) (hrx : s.st.rx.active = false)
    (hph : ph.belongs c = true) (h : s.stepPhase ph = some t) : t.EngineConsistent := by
  have hend : (s.endWith .none).EngineConsistent := engineConsistent_endWith hrx _
  have hstay {recv : Bool} {i : Int} {v : State} (hf : s.fetch recv i = .progress v) : v.EngineConsistent :=
    engineConsistent_congr (fetch_control hf).1 (by rw [(fetch_control hf).2])
      ((engineConsistent_other hc he).2 ⟨hrx, .inl ⟨hph, rfl⟩⟩)
  have hgo {v : State} (heng : v.eng = s.eng) (hst : v.st = s.st) {todo' : List Act} {ph' : Phase}
      (hph' : ph'.belongs c = true) (htodo : todo'.all (Act.belongs c) = true) : (v.load todo' ph').EngineConsistent :=
    engineConsistent_loadOther hc (heng.trans he) (by rw [hst, hrx]) (.inl ⟨hph', htodo⟩)
  have htx {v : State} (heng : v.eng = s.eng) (hst : v.st = s.st) {tx : TxCodec} {todo' : List Act} {ph' : Phase}
      (hph' : ph'.belongs c = true) (htodo : todo'.all (Act.belongs c) = true) :
      ({ v with tx := tx }.load todo' ph').EngineConsistent :=
    hgo (v := { v with tx := tx }) heng hst hph' htodo
  cases ph with
  | adv left =>
    obtain ⟨n, rfl⟩ := belongs_adv hph
    cases left with
    | zero => cases h; exact hend
    | succ left =>
      simp only [State.stepPhase, State.stepAdv] at h
      split at h <;> cases h
      · exact hend
      · exact hstay ‹_›
      · exact hgo (v := s.rsStep) rfl rfl rfl (by rw [List.all_append, pushSampleActs_belong fun _ => rfl]; rfl)
  | mod left syms =>
    obtain ⟨n, rfl⟩ := belongs_mod hph
    cases left with
    | zero => cases h; exact hend
    | succ left =>
      simp only [State.stepPhase, State.stepMod] at h
      split at h
      · cases h
      · cases h; exact hend
      · next v hv =>
        have hpop : v.eng = s.eng ∧ v.st = s.st := by rw [(popSym_got hv).2]; exact ⟨rfl, rfl⟩
        split at h <;> cases h
        · exact hgo hpop.1 hpop.2 rfl (modBlockActs_belong (fun _ => rfl) _ _)
        · exact hgo hpop.1 hpop.2 rfl rfl
  | demod left win =>
    obtain ⟨n, rfl⟩ := belongs_demod hph
    cases left with
    | zero => cases h; exact hend
    | succ left =>
      simp only [State.stepPhase, State.stepDemod] at h
      split at h
      · cases h
      · cases h; exact hend
      · cases h; exact hstay ‹_›
      · split at h <;> cases h
        · exact hgo (v := s.rsStep) rfl rfl rfl (demodBlockActs_belong n _ _)
        · exact hgo (v := s.rsStep) rfl rfl rfl rfl
  | lead left =>
    obtain rfl : c = .send := of_decide_eq_true hph
    cases left <;> cases h
    · exact hgo rfl rfl rfl rfl
    · exact hgo rfl rfl rfl (emitSamples_belong (fun _ => rfl) _ _)
  | preamble i =>
    obtain rfl : c = .send := of_decide_eq_true hph
    simp only [State.stepPhase, State.stepPreamble] at h
    split at h <;> cases h
    · exact hgo rfl rfl rfl (emitSamples_belong (fun _ => rfl) _ _)
    · exact htx (v := s) rfl rfl rfl rfl
  | data =>
    obtain rfl : c = .send := of_decide_eq_true hph
    simp only [State.stepPhase, State.stepData] at h
    split at h
    · cases h
    · cases h; exact hgo rfl rfl rfl rfl
    · next v hv =>
      have hpop : v.eng = s.eng ∧ v.st = s.st := by rw [(popByte_got hv).2]; exact ⟨rfl, rfl⟩
      split at h <;> cases h <;> exact htx hpop.1 hpop.2 rfl rfl
  | emit queue last =>
    obtain rfl : c = .send := of_decide_eq_true hph
    cases queue <;> cases h
    · exact htx (v := s) rfl rfl (by cases last <;> rfl) rfl
    · exact htx (v := s) rfl rfl rfl (flatMap_emitBlock_belong (fun _ => rfl) _ _)
  | pad =>
    obtain rfl : c = .send := of_decide_eq_true hph
    simp only [State.stepPhase, State.stepPad] at h
    split at h <;> cases h
    · exact hgo rfl rfl rfl rfl
    · exact htx (v := s) rfl rfl rfl (emitSamples_belong (fun _ => rfl) _ _)
  | trail left =>
    obtain rfl : c = .send := of_decide_eq_true hph
    cases left <;> cases h
    · exact engineConsistent_loadOther hc he hrx (.inr ⟨rfl, rfl, .inl rfl⟩)
    · exact hgo rfl rfl rfl (emitSamples_belong (fun _ => rfl) _ _)
  | _ => cases hph

theorem engineConsistent_performOther {a : Act} {rest : List Act} (hc : c ≠ .recv) (he : s.eng = .run c (a :: rest) ph)
    (hrx : s.st.rx.active = false) (hplace : otherPlace c (a :: rest) ph) (h : (s.load rest ph).perform a = some t) :
    t.EngineConsistent := by
  have hgo (hset : ∀ r, a ≠ .setRx r) (hfin : ∀ e, a ≠ .finish e) (hrest : otherPlace c rest ph) :
      t.EngineConsistent := by
    obtain ⟨e, ha, -⟩ | ⟨heng, -, hst⟩ := perform_control h
    · exact absurd ha (hfin e)
    · have hnext : a.nextRx s.st.rx = s.st.rx := by
        cases a with
        | setRx r => exact absurd rfl (hset r)
        | _ => rfl
      rw [engineConsistent_other hc (heng.trans (load_eng he rest ph)), hst, load_st, hnext]
      exact ⟨hrx, hrest⟩
  obtain ⟨hph, hall⟩ | ⟨rfl, rfl, ha | ha⟩ := hplace
  · simp only [List.all_cons, Bool.and_eq_true] at hall
    obtain ⟨ha, hrest⟩ := hall
    refine hgo ?_ ?_ (.inl ⟨hph, hrest⟩)
    · rintro r rfl; cases ha
    · rintro e rfl; cases ha
  · cases ha; exact hgo nofun nofun (.inr ⟨rfl, rfl, .inr rfl⟩)
  · cases ha; cases h; exact engineConsistent_endWith (by rw [load_st, hrx]) _

/-! ### A step -/

theorem engineConsistent_engineStep (he : s.engineStep = some t) (h : s.EngineConsistent) : t.EngineConsistent := by
  obtain ⟨c, a, rest, ph, hc, he⟩ | ⟨c, ph, hc, he⟩ := engineStep_cases he <;> by_cases hrecv : c = .recv
  · subst hrecv
    exact engineConsistent_performRecv hc ((engineConsistent_recv hc).1 h) he
  · obtain ⟨hrx, hplace⟩ := (engineConsistent_other hrecv hc).1 h
    exact engineConsistent_performOther hrecv hc hrx hplace he
  · subst hrecv
    exact engineConsistent_stepRecv hc ((engineConsistent_recv hc).1 h) he
  · obtain ⟨hrx, ⟨hph, -⟩ | ⟨-, -, hno | hno⟩⟩ := (engineConsistent_other hrecv hc).1 h
    · exact engineConsistent_stepOther hrecv hc hrx hph he
    · cases hno
    · cases hno

theorem engineConsistent_begun (hrx : s.st.rx.active = false) (he : s.eng = .run c [] .closing) :
    (begun c s).EngineConsistent := by
  have hstart (n : Nat) {ph : Phase} (hc : c ≠ .recv) (hph : ph.belongs c = true) :
      (s.startCounted n ph).EngineConsistent :=
    startCounted_keeps n ph (engineConsistent_endWith hrx _)
      (engineConsistent_loadOther hc he hrx (.inl ⟨hph, rfl⟩))
  cases c with
  | srst => exact engineConsistent_endWith (s := s.sessionReset) rfl _
  | send => exact engineConsistent_loadOther (c := .send) nofun he hrx (.inl ⟨rfl, rfl⟩)
  | recv => exact engineConsistent_loadRecv (s := s.recvStart) he ⟨rfl, rfl⟩
  | mod n => exact hstart n nofun rfl
  | demod n => exact hstart n nofun rfl
  | rsAdv n => exact hstart n nofun rfl
  | _ => exact hrx

theorem idle_inactive (hb : s.busy = false) (h : s.EngineConsistent) : s.st.rx.active = false :=
  (engineConsistent_idle ((busy_eq_false_iff s).1 hb)).1 h

theorem engineConsistent_issued {i : Instr} (ht : issued i s = t) (h : s.EngineConsistent) : t.EngineConsistent := by
  cases issued_cases ht with
  | abort => exact engineConsistent_endWith (s := s.sessionReset) rfl _
  | reject => exact h
  | bad hb => exact engineConsistent_endWith (s := s.accept i) (idle_inactive (s := s) hb h) _
  | begin hb => exact engineConsistent_begun (s := s.accept i) (idle_inactive (s := s) hb h) rfl

theorem engineConsistent_issueIllegal (ht : s.issueIllegal = t) (h : s.EngineConsistent) : t.EngineConsistent := by
  cases issueIllegal_cases ht with
  | reject => exact h
  | ends hb => exact engineConsistent_endWith (s := s.accept .nop) (idle_inactive (s := s) hb h) _

theorem engineConsistent_transact {x : HostTxn} (ht : s.transact x = t) (h : s.EngineConsistent) :
    t.EngineConsistent := by
  cases transact_cases ht with
  | write hw => cases hw <;> exact h
  | port => exact h
  | reset => exact rfl

theorem engineConsistent_step (hs : step s = .next t) (h : s.EngineConsistent) : t.EngineConsistent :=
  step_keeps (P := State.EngineConsistent) (fun _ _ _ h => h) (fun _ _ h => engineConsistent_transact rfl h)
    (fun _ _ h => engineConsistent_issued rfl h) (fun _ h => engineConsistent_issueIllegal rfl h)
    (fun _ _ h he => engineConsistent_engineStep he h) h hs

end

end Sys2Proof.Machine
end

section
/-! PROOFS. The receive codec, the checks of the executing command, and the configuration of a busy machine
(44_frame_rx.md R306, R313; 45_control.md R345; 10_state.md R57). -/

namespace Sys2Proof.Machine

section
variable {s t u : State} {ph : Phase}

/-! ### The receive codec -/

theorem parseByte_rbits (r : RxCodec) (v : Byte) : (r.parseByte v).1.rbits = r.rbits := by
  unfold RxCodec.parseByte
  split
  · split <;> rfl
  · rfl

theorem rxBit_rbits {r : RxCodec} (h : r.rbits.length < 8) (c : Bool) : (r.rxBit c).1.rbits.length < 8 := by
  unfold RxCodec.rxBit
  dsimp only
  split
  case isTrue => rw [parseByte_rbits]; exact Nat.succ_pos 7
  case isFalse hne =>
    have hlen : (r.rbits ++ [c]).length = r.rbits.length + 1 := List.length_append
    dsimp only
    omega

theorem parseByte_gains (r : RxCodec) (v : Byte) : (r.parseByte v).1.gains = r.gains := by
  unfold RxCodec.parseByte
  split
  · split <;> rfl
  · rfl

theorem rxBit_gains (r : RxCodec) (c : Bool) : (r.rxBit c).1.gains = r.gains := by
  unfold RxCodec.rxBit
  dsimp only
  split
  · rw [parseByte_gains]
  · rfl

theorem phaseEffect_rbits (he : PhaseEffect s ph u) (h : s.rx.rbits.length < 8) : u.rx.rbits.length < 8 := by
  cases he with
  | unit hp => rw [(popSample_control hp).2.2]; exact h
  | sample hp => rw [appendSample_rx, (popSample_control hp).2.2]; exact h
  | bit => exact rxBit_rbits h _
  | _ => exact h

/-- Only calibration sets the exact gains. -/
theorem phaseEffect_gains (he : PhaseEffect s ph u) : ph = .calibrate ∨ u.rx.gains = s.rx.gains := by
  cases he with
  | calibrate => exact .inl rfl
  | unit hp => rw [(popSample_control hp).2.2]; exact .inr rfl
  | sample hp => rw [appendSample_rx, (popSample_control hp).2.2]; exact .inr rfl
  | bit => exact .inr (rxBit_gains _ _)
  | _ => exact .inr rfl

theorem codecConsistent_of_idle (he : t.eng = .idle) (h : t.rx.rbits.length < 8) : t.CodecConsistent :=
  ⟨h, fun c todo ph hc => by rw [he] at hc; cases hc⟩

/-- The codec is as its rules leave it where it was, in the same phase and configuration. -/
theorem codecConsistent_congr {c c' : Instr} {todo todo' : List Act} (hs : s.eng = .run c todo ph)
    (ht : t.eng = .run c' todo' ph) (hrx : t.rx = s.rx) (hcfg : t.cfg = s.cfg) (h : s.CodecConsistent) :
    t.CodecConsistent := by
  refine ⟨by rw [hrx]; exact h.bits, fun c₁ todo₁ ph₁ heng hph => ?_⟩
  rw [ht] at heng
  cases heng
  rw [hrx, State.nCar, hcfg]
  exact h.gains _ _ _ hs hph

theorem codecConsistent_stepPhase {c : Instr} (hc : s.eng = .run c [] ph) (he : s.stepPhase ph = some t)
    (h : s.CodecConsistent) : t.CodecConsistent := by
  obtain ⟨u, heff, hexit⟩ := stepPhase_cases he
  have hbits := phaseEffect_rbits heff h.bits
  have hu : u.eng = .run c [] ph := (phaseEffect_control heff).1.trans hc
  have hgains (hph : ph.receiving = true) : u.rx.gains.length = u.nCar := by
    obtain rfl | hg := phaseEffect_gains heff
    · cases hph
    · rw [hg, State.nCar, phaseEffect_cfg heff]
      exact h.gains _ _ _ hc hph
  cases hexit with
  | stay => exact ⟨hbits, fun _ _ _ heng hph => hgains (by rw [hu] at heng; cases heng; exact hph)⟩
  | finish => exact codecConsistent_of_idle rfl hbits
  | load todo q hq =>
    refine ⟨by rwa [load_rx], fun _ _ _ heng hph => ?_⟩
    rw [load_eng hu] at heng
    cases heng
    rw [load_rx, State.nCar, load_cfg]
    exact (hq hph).elim hgains id

theorem codecConsistent_engineStep (he : s.engineStep = some t) (h : s.CodecConsistent) : t.CodecConsistent := by
  obtain ⟨c, a, rest, ph, hc, he⟩ | ⟨c, ph, hc, he⟩ := engineStep_cases he
  · obtain ⟨e, -, rfl⟩ | ⟨heng, hrx, -⟩ := perform_control he
    · exact codecConsistent_of_idle rfl (by simpa using h.bits)
    · exact codecConsistent_congr hc (heng.trans (load_eng hc _ _)) (by rw [hrx, load_rx])
        ((keepsSetup_perform he).cfg.trans (load_cfg _ _ _)) h
  · exact codecConsistent_stepPhase hc he h

/-- A command starts outside the phases that demodulate data blocks. -/
theorem codecConsistent_begun {c : Instr} (he : s.eng = .run c [] .closing) (h : s.rx.rbits.length < 8) :
    (begun c s).CodecConsistent := by
  have hload {v : State} {todo : List Act} {ph : Phase} (hv : v.eng = s.eng) (hbits : v.rx.rbits.length < 8)
      (hph : ph.receiving = false) : (v.load todo ph).CodecConsistent :=
    ⟨by rwa [load_rx], fun c₁ todo₁ ph₁ heng hrec => by
      rw [load_eng (hv.trans he)] at heng; cases heng; rw [hph] at hrec; cases hrec⟩
  have hstart (n : Nat) {ph : Phase} (hph : ph.receiving = false) : (s.startCounted n ph).CodecConsistent :=
    startCounted_keeps n ph (codecConsistent_of_idle rfl h) (hload rfl h hph)
  cases c with
  | srst => exact codecConsistent_of_idle rfl (Nat.succ_pos 7)
  | send => exact hload rfl h rfl
  | recv => exact hload (v := s.recvStart) rfl (Nat.succ_pos 7) rfl
  | mod n => exact hstart n rfl
  | demod n => exact hstart n rfl
  | rsAdv n => exact hstart n rfl
  | _ => exact codecConsistent_of_idle rfl h

theorem codecConsistent_issued {i : Instr} (ht : issued i s = t) (h : s.CodecConsistent) : t.CodecConsistent := by
  cases issued_cases ht with
  | abort => exact codecConsistent_of_idle rfl (Nat.succ_pos 7)
  | reject => exact { h with }
  | bad => exact codecConsistent_of_idle rfl h.bits
  | begin => exact codecConsistent_begun rfl h.bits

theorem codecConsistent_issueIllegal (ht : s.issueIllegal = t) (h : s.CodecConsistent) : t.CodecConsistent := by
  cases issueIllegal_cases ht with
  | reject => exact { h with }
  | ends => exact codecConsistent_of_idle rfl h.bits

theorem codecConsistent_transact {x : HostTxn} (ht : s.transact x = t) (h : s.CodecConsistent) : t.CodecConsistent := by
  cases transact_cases ht with
  | write hw =>
    cases hw with
    | stored r hb => exact codecConsistent_of_idle ((busy_eq_false_iff s).1 hb) h.bits
    | _ => exact { h with }
  | port => exact { h with }
  | reset => exact codecConsistent_of_idle rfl (Nat.succ_pos 7)

theorem codecConsistent_step (hs : step s = .next t) (h : s.CodecConsistent) : t.CodecConsistent :=
  step_keeps (P := State.CodecConsistent) (fun _ _ _ h => { h with }) (fun _ _ h => codecConsistent_transact rfl h)
    (fun _ _ h => codecConsistent_issued rfl h) (fun _ h => codecConsistent_issueIllegal rfl h)
    (fun _ _ h he => codecConsistent_engineStep he h) h hs

/-! ### The checks of the executing command -/

/-- RECV's checks read the parameters and the configuration alone: CAL is what it is to find out (45_control.md R355). -/
theorem checks_recv_congr (hp : t.par = s.par) (hc : t.cfg = s.cfg) : t.checks .recv = s.checks .recv := by
  have e : { s with par := t.par, cfg := t.cfg } = s := by rw [hp, hc]
  rw [← e]
  rfl

/-- CALIBRATING is RECV's. -/
theorem recv_of_calibrate {c : Instr} (hc : s.eng = .run c [] .calibrate) (h : s.EngineConsistent) : c = .recv := by
  by_contra hne
  obtain ⟨-, ⟨hno, -⟩ | ⟨-, hno, -⟩⟩ := (engineConsistent_other hne hc).1 h <;> cases hno

/-- While another command than RECV executes, the CAL table stays. -/
theorem engineStep_cal_other (he : s.engineStep = some t) (h : s.EngineConsistent)
    (hne : ∀ todo ph, s.eng ≠ .run .recv todo ph) : t.cal = s.cal := by
  obtain hcal | ⟨⟨c, hc⟩, -⟩ := engineStep_cal he
  · exact hcal
  · obtain rfl := recv_of_calibrate hc h
    exact absurd hc (hne _ _)

theorem checksHold_of_idle (he : s.eng = .idle) : s.ChecksHold :=
  fun c todo ph hc => by rw [he] at hc; cases hc

theorem checksHold_engineStep (he : s.engineStep = some t) (hcons : s.EngineConsistent) (h : s.ChecksHold) :
    t.ChecksHold := by
  intro c' todo' ph' ht
  obtain ⟨hpar, -, -, -, -, hcfg⟩ := keepsSetup_engineStep he
  cases hs : s.eng with
  | idle => rw [engineStep_idle hs] at he; cases he
  | run c todo ph =>
    obtain hidle | ⟨todo₁, ph₁, hrun⟩ := engineStep_command hs he
    · rw [hidle] at ht; cases ht
    obtain rfl : c = c' := by rw [hrun] at ht; cases ht; rfl
    have hc := h c todo ph hs
    by_cases hrecv : c = .recv
    · rw [hrecv] at hc ⊢
      rwa [checks_recv_congr hpar hcfg]
    · have hcal := engineStep_cal_other he hcons fun _ _ hr => hrecv (by rw [hs] at hr; cases hr; rfl)
      rwa [checks_congr hpar hcfg hcal]

/-- The command has ended, or it executes with the parameters, configuration and CAL table of s. -/
def EndedOrStarted (c : Instr) (s v : State) : Prop :=
  v.eng = .idle ∨ ((∃ ph, v.eng = .run c [] ph) ∧ v.par = s.par ∧ v.cfg = s.cfg ∧ v.cal = s.cal)

theorem endedOrStarted_begun (c : Instr) {s : State} (he : s.eng = .run c [] .closing) :
    EndedOrStarted c s (begun c s) := by
  have hload (ph : Phase) : EndedOrStarted c s (s.load [] ph) :=
    .inr ⟨⟨ph, load_eng he _ _⟩, load_par _ _ _, load_cfg _ _ _, load_cal _ _ _⟩
  have hstart (n : Nat) (ph : Phase) : EndedOrStarted c s (s.startCounted n ph) :=
    startCounted_keeps n ph (.inl rfl) (hload ph)
  cases c with
  | send => exact hload _
  | recv => exact .inr ⟨⟨_, load_eng (s := s.recvStart) he _ _⟩, load_par _ _ _, load_cfg _ _ _, load_cal _ _ _⟩
  | mod n => exact hstart n _
  | demod n => exact hstart n _
  | rsAdv n => exact hstart n _
  | _ => exact .inl rfl

theorem checksHold_issued {i : Instr} (ht : issued i s = t) (h : s.ChecksHold) : t.ChecksHold := by
  cases issued_cases ht with
  | abort => exact checksHold_of_idle rfl
  | reject => exact h
  | bad => exact checksHold_of_idle rfl
  | begin hb hi =>
    obtain hidle | ⟨⟨ph, hrun⟩, hpar, hcfg, hcal⟩ := endedOrStarted_begun i (s := s.accept i) rfl
    · exact checksHold_of_idle hidle
    · intro c todo ph' hc
      obtain rfl : i = c := by rw [hrun] at hc; cases hc; rfl
      rw [checks_congr hpar hcfg hcal, accept_checks, hi]

theorem checksHold_issueIllegal (ht : s.issueIllegal = t) (h : s.ChecksHold) : t.ChecksHold := by
  cases issueIllegal_cases ht with
  | reject => exact h
  | ends => exact checksHold_of_idle rfl

theorem checksHold_transact {x : HostTxn} (ht : s.transact x = t) (h : s.ChecksHold) : t.ChecksHold := by
  cases transact_cases ht with
  | write hw =>
    cases hw with
    | stored r hb => exact checksHold_of_idle ((busy_eq_false_iff s).1 hb)
    | _ => exact h
  | port => exact h
  | reset => exact checksHold_of_idle rfl

theorem checksHold_step (hs : step s = .next t) (hcons : s.EngineConsistent) (h : s.ChecksHold) : t.ChecksHold :=
  (step_keeps (P := fun v => v.EngineConsistent ∧ v.ChecksHold) (fun _ _ _ h => h)
    (fun _ _ h => ⟨engineConsistent_transact rfl h.1, checksHold_transact rfl h.2⟩)
    (fun _ _ h => ⟨engineConsistent_issued rfl h.1, checksHold_issued rfl h.2⟩)
    (fun _ h => ⟨engineConsistent_issueIllegal rfl h.1, checksHold_issueIllegal rfl h.2⟩)
    (fun _ _ h he => ⟨engineConsistent_engineStep he h.1, checksHold_engineStep he h.1 h.2⟩) ⟨hcons, h⟩ hs).2

/-- Settles O53: the phases follow their command's rule and RECV's the transition table; the codec and the checks follow. -/
theorem stepKeepsEngine : Obligations.StepKeepsEngine := by
  unfold Obligations.StepKeepsEngine
  exact fun s t h hs => ⟨engineConsistent_step hs h, codecConsistent_step hs, checksHold_step hs h⟩

/-! ### The configuration of a busy machine -/

/-- A turn of a busy machine but a reset leaves configuration and CAL, and aborts the command or leaves it where it is. -/
theorem turned_busy {x : Turn} {rest : List Turn} (hb : s.busy = true) (hx : x.txn ≠ .reset)
    (hu : turned s x rest = u) :
    u.cfg = s.cfg ∧ u.cal = s.cal ∧ (u.eng = .idle ∨ u.eng = s.eng ∧ u.st.rx = s.st.rx) := by
  have hidle {P : Prop} (h : (s.beginTurn x rest).busy = false) : P := by
    rw [show (s.beginTurn x rest).busy = s.busy from rfl, hb] at h; cases h
  cases turned_cases hu with
  | command i =>
    generalize hi : issued i (s.beginTurn x rest) = v
    cases issued_cases hi with
    | abort => exact ⟨rfl, rfl, .inl rfl⟩
    | reject => exact ⟨rfl, rfl, .inr ⟨rfl, rfl⟩⟩
    | bad h => exact hidle h
    | begin h => exact hidle h
  | illegal =>
    generalize hi : (s.beginTurn x rest).issueIllegal = v
    cases issueIllegal_cases hi with
    | reject => exact ⟨rfl, rfl, .inr ⟨rfl, rfl⟩⟩
    | ends h => exact hidle h
  | transact =>
    generalize ht : (s.beginTurn x rest).transact x.txn = v
    generalize x.txn = y at hx ht
    cases transact_cases ht with
    | write hw =>
      cases hw with
      | stored r h => exact hidle h
      | _ => exact ⟨rfl, rfl, .inr ⟨rfl, rfl⟩⟩
    | port => exact ⟨rfl, rfl, .inr ⟨rfl, rfl⟩⟩
    | reset => exact absurd rfl hx

/-- While another command than RECV executes, a run of engine steps leaves the CAL table. -/
theorem runEngine_cal_other (k : Nat) (h : s.EngineConsistent) (hne : ∀ todo ph, s.eng ≠ .run .recv todo ph) :
    (State.runEngine k s).cal = s.cal := by
  refine (runEngine_keeps (P := fun v => v.EngineConsistent ∧ (∀ todo ph, v.eng ≠ .run .recv todo ph) ∧ v.cal = s.cal)
    (fun v w hv he => ?_) k ⟨h, hne, rfl⟩).2.2
  obtain ⟨hcons, hother, hcal⟩ := hv
  refine ⟨engineConsistent_engineStep he hcons, fun todo ph hw => ?_, (engineStep_cal_other he hcons hother).trans hcal⟩
  cases hc : v.eng with
  | idle => rw [engineStep_idle hc] at he; cases he
  | run c todo₀ ph₀ =>
    obtain hidle | ⟨todo₁, ph₁, hrun⟩ := engineStep_command hc he
    · rw [hidle] at hw; cases hw
    · rw [hrun] at hw; cases hw; exact hother _ _ hc

/-- Settles O56: a turn reaches no configuration while the engine runs, and only CALIBRATING writes CAL. -/
theorem configFrozenWhileBusy : Obligations.ConfigFrozenWhileBusy := by
  unfold Obligations.ConfigFrozenWhileBusy
  intro s t hb hx hs
  cases hsch : s.sched with
  | nil =>
    rw [step_nil hsch] at hs
    cases hs
    exact ⟨(keepsSetup_runEngine _ _).cfg, fun h hne => runEngine_cal_other _ h hne⟩
  | cons x rest =>
    rw [step_cons hsch] at hs
    cases hs
    obtain ⟨hcfg, hcal, heng⟩ := turned_busy hb (hx x rest hsch) rfl
    refine ⟨(keepsSetup_drive _).cfg.trans hcfg, fun h hne => ?_⟩
    obtain hidle | ⟨heng, hrx⟩ := heng
    · rw [drive_idle hidle, hcal]
    · exact (runEngine_cal_other _ (engineConsistent_congr heng hrx h) (by rwa [heng])).trans hcal

end

end Sys2Proof.Machine
end

section
/-! PROOFS. The register map: each register its index, each index its register (10_state.md R40, R58). -/

namespace Sys2Proof.Machine

section
variable {s t : State} {p : Params}

theorem tableReg_eq_some {base n : Nat} {mk : Nat → Reg} {i : Nat} {r : Reg} (h : tableReg base n mk i = some r) :
    ∃ k, r = mk k ∧ i = base + k ∧ k < 256 ∧ k < n := by
  simp only [tableReg, Option.ite_none_right_eq_some, Option.some.injEq] at h
  obtain ⟨⟨hlo, hhi, hn⟩, rfl⟩ := h
  exact ⟨i - base, rfl, by omega, by omega, hn⟩

theorem tableReg_add {base n k : Nat} (mk : Nat → Reg) (hk : k < 256) (hn : k < n) :
    tableReg base n mk (base + k) = some (mk k) := by
  unfold tableReg
  rw [Nat.add_sub_cancel_left, if_pos ⟨by omega, by omega, hn⟩]

theorem plainReg_eq_some {i : Nat} {r : Reg} (h : plainReg i = some r) :
    r.implemented p = true ∧ r.index.toNat = i := by
  unfold plainReg at h
  split at h <;> cases h <;> exact ⟨rfl, rfl⟩

theorem toNat_ofNat_index {n : Nat} (h : n < 2 ^ 32) : (BitVec.ofNat 32 n).toNat = n := by
  rw [BitVec.toNat_ofNat, Nat.mod_eq_of_lt h]

theorem Params.bounds (h : p.ok = true) : p.kMax ≤ 256 ∧ 2 ^ p.bMax ≤ 256 ∧ p.lMax ≤ 4096 := by
  simp only [Params.ok, Bool.and_eq_true, decide_eq_true_eq] at h
  obtain ⟨⟨⟨⟨⟨⟨⟨⟨⟨⟨⟨⟨-, hk⟩, -⟩, hb⟩, -⟩, hl⟩, -⟩, -⟩, -⟩, -⟩, -⟩, -⟩, -⟩ := h
  exact ⟨hk, Nat.pow_le_pow_right (by decide) hb, hl⟩

/-- A register an index names is implemented and has that index. -/
theorem regAt_eq_some {ix : Index} {r : Reg} (h : regAt p ix = some r) : r.implemented p = true ∧ r.index = ix := by
  suffices r.implemented p = true ∧ r.index.toNat = ix.toNat from ⟨this.1, BitVec.eq_of_toNat_eq this.2⟩
  have hlt := ix.isLt
  unfold regAt at h
  dsimp only at h
  generalize ix.toNat = i at h hlt
  have htable {base n : Nat} {mk : Nat → Reg} (h : tableReg base n mk i = some r)
      (himp : ∀ k < n, (mk k).implemented p = true) (hix : ∀ k, (mk k).index = BitVec.ofNat 32 (base + k)) :
      r.implemented p = true ∧ r.index.toNat = i := by
    obtain ⟨k, rfl, hk, -, hn⟩ := tableReg_eq_some h
    exact ⟨himp k hn, by rw [hix, ← hk, toNat_ofNat_index hlt]⟩
  split at h
  · exact plainReg_eq_some h
  iterate 6
    split at h
    · exact htable h (fun k hk => decide_eq_true hk) fun _ => rfl
  split at h
  · cases h
  · simp only [Option.ite_none_right_eq_some, Option.some.injEq] at h
    obtain ⟨⟨ht, hk⟩, rfl⟩ := h
    refine ⟨Bool.and_eq_true_iff.2 ⟨decide_eq_true ht, decide_eq_true hk⟩, ?_⟩
    rw [Reg.index, toNat_ofNat_index] <;> omega

theorem regAt_index (hp : p.ok = true) {r : Reg} (h : r.implemented p = true) : regAt p r.index = some r := by
  obtain ⟨hk, hb, hl⟩ := Params.bounds hp
  have hindex {n : Nat} (hn : n < 2 ^ 32) {q : Option Reg}
      (hq : ∀ ix : Index, ix.toNat = n → regAt p ix = q) : regAt p (BitVec.ofNat 32 n) = q :=
    hq _ (toNat_ofNat_index hn)
  cases r with
  | cfgBin k =>
    have hlt := of_decide_eq_true h
    refine hindex (n := 0x100 + k) (by omega) fun ix hix => ?_
    rw [regAt, hix]
    rw [if_neg (by omega)]
    rw [if_pos (by omega)]
    exact tableReg_add _ (by omega) hlt
  | cfgPhref k =>
    have hlt := of_decide_eq_true h
    refine hindex (n := 0x200 + k) (by omega) fun ix hix => ?_
    rw [regAt, hix]
    iterate 2 rw [if_neg (by omega)]
    rw [if_pos (by omega)]
    exact tableReg_add _ (by omega) hlt
  | cfgConstRe i =>
    have hlt := of_decide_eq_true h
    refine hindex (n := 0x300 + i) (by omega) fun ix hix => ?_
    rw [regAt, hix]
    iterate 3 rw [if_neg (by omega)]
    rw [if_pos (by omega)]
    exact tableReg_add _ (by omega) hlt
  | cfgConstIm i =>
    have hlt := of_decide_eq_true h
    refine hindex (n := 0x400 + i) (by omega) fun ix hix => ?_
    rw [regAt, hix]
    iterate 4 rw [if_neg (by omega)]
    rw [if_pos (by omega)]
    exact tableReg_add _ (by omega) hlt
  | calRe k =>
    have hlt := of_decide_eq_true h
    refine hindex (n := 0x500 + k) (by omega) fun ix hix => ?_
    rw [regAt, hix]
    iterate 5 rw [if_neg (by omega)]
    rw [if_pos (by omega)]
    exact tableReg_add _ (by omega) hlt
  | calIm k =>
    have hlt := of_decide_eq_true h
    refine hindex (n := 0x600 + k) (by omega) fun ix hix => ?_
    rw [regAt, hix]
    iterate 6 rw [if_neg (by omega)]
    rw [if_pos (by omega)]
    exact tableReg_add _ (by omega) hlt
  | cfgTrain t k =>
    obtain ⟨ht, hlt⟩ := Bool.and_eq_true_iff.1 h
    have ht := of_decide_eq_true ht
    have hlt := of_decide_eq_true hlt
    refine hindex (n := 0x100000 + 256 * t + k) (by omega) fun ix hix => ?_
    rw [regAt, hix]
    iterate 8 rw [if_neg (by omega)]
    have hdiv : (0x100000 + 256 * t + k - 0x100000) / 256 = t := by omega
    have hmod : (0x100000 + 256 * t + k - 0x100000) % 256 = k := by omega
    dsimp only
    rw [hdiv, hmod, if_pos ⟨ht, hlt⟩]
  | _ => rfl

/-- Settles O6: each direction by the row of the table the register or the index is in. -/
theorem registerMapRoundTrip : Obligations.RegisterMapRoundTrip := by
  unfold Obligations.RegisterMapRoundTrip
  refine ⟨by decide, fun k hk => ?_, fun t ht k hk => ?_, fun p hp => ⟨fun r => regAt_index hp, fun ix r => regAt_eq_some⟩⟩
  · refine ⟨?_, ?_, ?_, ?_, ?_, ?_⟩ <;> exact toNat_ofNat_index (by omega)
  · exact toNat_ofNat_index (by omega)

end

end Sys2Proof.Machine
end

section
/-! PROOFS. Register reads and writes, STATUS, and the reset state (10_state.md R40 to R59, R90). -/

namespace Sys2Proof.Machine

section
variable {s : State}

/-! ### Register transactions -/

theorem regAt_eq_none {p : Params} {ix : Index} (h : ∀ r : Reg, r.implemented p = true → r.index ≠ ix) :
    regAt p ix = none :=
  Option.eq_none_iff_forall_not_mem.2 fun r hr =>
    let ⟨himp, hix⟩ := regAt_eq_some hr
    h r himp hix

theorem memRead_of_regAt {ix : Index} {r : Reg} (h : regAt s.par ix = some r) : s.memRead ix = s.regValue r := by
  simp only [State.memRead, h]

theorem memRead_reserved {ix : Index} (h : regAt s.par ix = none) : s.memRead ix = 0 := by
  simp only [State.memRead, h]

theorem transact_read (hp : s.par.ok = true) {r : Reg} (h : r.implemented s.par = true) :
    s.transact (.read r.index) = { s with reply := .word (s.regValue r) } := by
  rw [← memRead_of_regAt (regAt_index hp h)]
  rfl

section
variable {ix : Index} {r : Reg} (v : Word)

theorem memWrite_reserved (h : regAt s.par ix = none) : s.memWrite ix v = s.ignored := by
  simp only [State.memWrite, h]

theorem memWrite_readOnly (h : regAt s.par ix = some r) (hr : r.access = .readOnly) : s.memWrite ix v = s.ignored := by
  simp only [State.memWrite, h, hr]

theorem memWrite_busy (h : regAt s.par ix = some r) (hr : r.access = .config) (hb : s.busy = true) :
    s.memWrite ix v = s.ignored := by
  simp only [State.memWrite, h, hr, hb, if_true]

theorem memWrite_idle (h : regAt s.par ix = some r) (hr : r.access = .config) (hb : s.busy = false) :
    s.memWrite ix v = s.stored r v := by
  simp only [State.memWrite, h, hr, hb, Bool.false_eq_true, if_false, State.stored]

end

/-- A u32 value in a register reads 0 above bit 31. -/
theorem zeroExtend_lt (v : BitVec 32) : (v.zeroExtend 64).toNat < 2 ^ 32 := by
  rw [BitVec.toNat_setWidth]
  exact (Nat.mod_le _ _).trans_lt v.isLt

/-- Settles O7, by the register map in both directions. -/
theorem readsAndReservedIndices : Obligations.ReadsAndReservedIndices := by
  unfold Obligations.ReadsAndReservedIndices
  intro s hp
  refine ⟨fun r => transact_read hp, ?_, rfl, rfl, ?_, fun k t => ⟨zeroExtend_lt _, zeroExtend_lt _⟩, fun ix hix => ?_⟩
  · have hread (r : Reg) (h : r.implemented s.par = true) := transact_read hp h
    simp only [List.forall_mem_cons]
    exact ⟨hread .count rfl, hread .rxConsumed rfl, hread .rxBlocks rfl, hread .detOffset rfl, hread .detPeak rfl,
      hread .clkFreq rfl, hread .clkPhase rfl, hread .rsPos rfl, hread .rsRatio rfl, nofun⟩
  · simp only [List.forall_mem_cons]
    refine ⟨?_, ?_, ?_, ?_, ?_, ?_, ?_, ?_, ?_, ?_, ?_, nofun⟩ <;> exact zeroExtend_lt _
  · have hnone := regAt_eq_none hix
    refine ⟨?_, fun v => memWrite_reserved v hnone⟩
    rw [← memRead_reserved hnone]
    rfl

/-! ### What a configuration write stores -/

/-- The low bits of a value are the value under a mask. -/
theorem zeroExtend_setWidth {n : Nat} (hn : n ≤ 64) (v : Word) :
    (v.setWidth n).zeroExtend 64 = v &&& BitVec.ofNat 64 (2 ^ n - 1) := by
  have hpow : 2 ^ n ≤ 2 ^ 64 := Nat.pow_le_pow_right (by decide) hn
  have hpos : 0 < 2 ^ n := Nat.two_pow_pos n
  refine BitVec.eq_of_toNat_eq ?_
  rw [BitVec.toNat_setWidth, BitVec.toNat_setWidth, BitVec.toNat_and, BitVec.toNat_ofNat,
    Nat.mod_eq_of_lt (a := 2 ^ n - 1) (by omega), Nat.and_two_pow_sub_one_eq_mod]
  exact Nat.mod_eq_of_lt ((Nat.mod_lt _ hpos).trans_le hpow)

/-- A configuration register reads the part of the value it stores (10_state.md R57). -/
theorem regValue_stored (htab : s.TablesCanonical) {r : Reg} (hr : r.access = .config) (v : Word) :
    (s.stored r v).regValue r = r.stored v := by
  have u32 := zeroExtend_setWidth (n := 32) (by decide) v
  have entry {w : Nat} {d : BitVec w} {tab : Table w} (hwf : Table.wf d tab = true) (k : Nat) (x : BitVec w) :
      Table.get d (Table.put d tab k x) k = x := by
    rw [Table.get_put k x hwf, if_pos rfl]
  cases r with
  | cfgFlags => exact zeroExtend_setWidth (n := 2) (by decide) v
  | cfgThresh => rfl
  | cfgKp => rfl
  | cfgKi => rfl
  | cfgRatio0 => rfl
  | cfgPcmScale => rfl
  | cfgBin k => exact (congrArg (BitVec.zeroExtend 64) (entry htab.bin k _)).trans u32
  | cfgTrain i k => exact (congrArg (BitVec.zeroExtend 64) (entry htab.train _ _)).trans u32
  | cfgPhref k => exact entry htab.phref k v
  | cfgConstRe i => exact entry htab.constRe i v
  | cfgConstIm i => exact entry htab.constIm i v
  | calRe k => exact entry htab.calRe k v
  | calIm k => exact entry htab.calIm k v
  | cfgFs => exact u32
  | cfgN => exact u32
  | cfgK => exact u32
  | cfgB => exact u32
  | cfgLtrain => exact u32
  | cfgSilStart => exact u32
  | cfgSilStop => exact u32
  | cfgConfirm => exact u32
  | cfgPilot => exact u32
  | cfgSearchLimit => exact u32
  | cfgSkip => exact u32
  | _ => cases hr

/-- Two entries of CFG_TRAIN have the same number only if they are the same (10_state.md R40, R79). -/
theorem trainEntry_inj {i j k l : Nat} (hk : k < 256) (hl : l < 256) (h : 256 * i + k = 256 * j + l) : i = j ∧ k = l := by
  omega

/-- No other register reads differently. -/
theorem regValue_stored_of_ne (hk : s.par.kMax ≤ 256) (htab : s.TablesCanonical) {r r' : Reg}
    (hr : r.implemented s.par = true) (hr' : r'.implemented s.par = true) (hne : r' ≠ r) (v : Word) :
    (s.stored r v).regValue r' = s.regValue r' := by
  have entry {w : Nat} {d : BitVec w} {tab : Table w} (hwf : Table.wf d tab = true) {k l : Nat} (hkl : l ≠ k)
      (x : BitVec w) : Table.get d (Table.put d tab k x) l = Table.get d tab l := by
    rw [Table.get_put k x hwf, if_neg hkl]
  cases r
  case cfgBin k =>
    cases r' with
    | cfgBin l => exact congrArg (BitVec.zeroExtend 64) (entry htab.bin (mt (congrArg Reg.cfgBin) hne) _)
    | _ => rfl
  case cfgTrain i k =>
    cases r' with
    | cfgTrain j l =>
      have hklt := of_decide_eq_true (Bool.and_eq_true_iff.1 hr).2
      have hllt := of_decide_eq_true (Bool.and_eq_true_iff.1 hr').2
      refine congrArg (BitVec.zeroExtend 64) (entry htab.train (fun e => hne ?_) _)
      obtain ⟨rfl, rfl⟩ := trainEntry_inj (by omega) (by omega) e
      rfl
    | _ => rfl
  case cfgPhref k =>
    cases r' with
    | cfgPhref l => exact entry htab.phref (mt (congrArg Reg.cfgPhref) hne) v
    | _ => rfl
  case cfgConstRe k =>
    cases r' with
    | cfgConstRe l => exact entry htab.constRe (mt (congrArg Reg.cfgConstRe) hne) v
    | _ => rfl
  case cfgConstIm k =>
    cases r' with
    | cfgConstIm l => exact entry htab.constIm (mt (congrArg Reg.cfgConstIm) hne) v
    | _ => rfl
  case calRe k =>
    cases r' with
    | calRe l => exact entry htab.calRe (mt (congrArg Reg.calRe) hne) v
    | _ => rfl
  case calIm k =>
    cases r' with
    | calIm l => exact entry htab.calIm (mt (congrArg Reg.calIm) hne) v
    | _ => rfl
  -- A register that is no table entry is a field of its own.
  all_goals
    cases r'
    any_goals rfl
    all_goals exact absurd rfl hne

/-- Settles O8: the write stores one register, by read after write. -/
theorem registerWrites : Obligations.RegisterWrites := by
  unfold Obligations.RegisterWrites
  intro s r v hp htab hr
  have hix := regAt_index hp hr
  refine ⟨fun hacc hb => ?_, fun hacc hb => memWrite_busy v hix hacc hb, fun hacc => memWrite_readOnly v hix hacc⟩
  rw [show s.transact (.write r.index v) = s.stored r v from memWrite_idle v hix hacc hb]
  exact ⟨regValue_stored htab hacc v,
    fun r' hr' hne => regValue_stored_of_ne (Params.bounds hp).1 htab hr hr' hne v, rfl⟩

end

/-! ### STATUS -/

/-- The word of STATUS for any codes and flags (10_state.md R43). -/
def statusBits (rx cause : BitVec 4) (wign rej result done busy : Bool) : BitVec (48 + 4 + 4 + 3 + 1 + 1 + 1 + 1 + 1) :=
  0#48 ++ rx ++ cause ++ 0#3 ++ BitVec.ofBool wign ++ BitVec.ofBool rej ++ BitVec.ofBool result ++ BitVec.ofBool done ++
    BitVec.ofBool busy

section
variable (rx cause : BitVec 4) (wign rej result done busy : Bool)

theorem statusBits_flags :
    let w := statusBits rx cause wign rej result done busy
    w.getLsbD 0 = busy ∧ w.getLsbD 1 = done ∧ w.getLsbD 2 = result ∧ w.getLsbD 3 = rej ∧ w.getLsbD 4 = wign := by
  simp only [statusBits, BitVec.getLsbD_append]
  simp

theorem statusBits_codes :
    let w := statusBits rx cause wign rej result done busy
    w.extractLsb' 5 3 = 0 ∧ w.extractLsb' 16 48 = 0 ∧ w.extractLsb' 8 4 = cause ∧ w.extractLsb' 12 4 = rx := by
  refine ⟨?_, ?_, ?_, ?_⟩ <;> ext i hi <;>
    rw [BitVec.getElem_extractLsb', statusBits] <;> simp only [BitVec.getLsbD_append]
  · iterate 5 rw [if_neg (by omega)]
    rw [if_pos (by omega)]
    simp
  · iterate 8 rw [if_neg (by omega)]
    simp
  · iterate 6 rw [if_neg (by omega)]
    rw [if_pos (by omega), show 8 + i - 1 - 1 - 1 - 1 - 1 - 3 = i by omega, BitVec.getLsbD_eq_getElem hi]
  · iterate 7 rw [if_neg (by omega)]
    rw [if_pos (by omega), show 12 + i - 1 - 1 - 1 - 1 - 1 - 3 - 4 = i by omega, BitVec.getLsbD_eq_getElem hi]

end

/-- Settles O9: the fields of the word, and the two bits a write clears. -/
theorem statusRegister : Obligations.StatusRegister := by
  unfold Obligations.StatusRegister
  intro s
  constructor
  · obtain ⟨hbusy, hdone, hresult, hrej, hwign⟩ :=
      statusBits_flags s.st.rx.code s.st.cause.code s.st.wign s.st.rej s.st.result s.st.done s.busy
    obtain ⟨hlow, hhigh, hcause, hrx⟩ :=
      statusBits_codes s.st.rx.code s.st.cause.code s.st.wign s.st.rej s.st.result s.st.done s.busy
    refine ⟨hbusy, hdone, hresult, hrej, hwign, hlow, hhigh, (congrArg BitVec.toNat hcause).trans ?_,
      (congrArg BitVec.toNat hrx).trans ?_⟩
    · cases s.st.cause <;> rfl
    · cases s.st.rx <;> rfl
  · intro v
    have hbit (b bit : Bool) : (b && !bit) = if bit then false else b := by cases bit <;> simp
    show s.writeStatus v = _
    rw [State.writeStatus, hbit, hbit]

/-! ### Reset -/

theorem regValue_resetOf (p : Params) (num : NumTable) (sched : List Turn) (burst : Nat) (r : Reg) :
    (State.resetOf p num sched burst).regValue r = r.resetValue := by
  have hstatus : State.reset.statusWord = 0 := by decide
  cases r with
  | status => exact hstatus
  | _ => rfl

/-- Settles O5: the reset event leaves what State.reset is, but for the parameters and the model's own fields. -/
theorem resetValues : Obligations.ResetValues := by
  unfold Obligations.ResetValues
  intro t ht
  obtain ⟨p, num, sched, burst, rfl⟩ : ∃ p num sched burst, t = State.resetOf p num sched burst := by
    obtain rfl | ⟨s, rfl⟩ := ht
    · exact ⟨_, _, _, _, rfl⟩
    · exact ⟨_, _, _, _, rfl⟩
  exact ⟨regValue_resetOf p num sched burst, rfl, rfl, rfl, rfl, rfl, rfl, rfl, rfl, rfl, rfl, rfl, rfl, rfl, rfl, rfl⟩

/-- Settles O55: the registers, tables and ports of reset are the initial ones and the engine is idle. -/
theorem resetMeetsInvariants : Obligations.ResetMeetsInvariants := by
  unfold Obligations.ResetMeetsInvariants
  exact ⟨mirrors_of_init rfl rfl, tablesCanonical_of_init rfl rfl, portsBounded_of_init rfl, .inl ⟨rfl, rfl, rfl⟩, rfl,
    codecConsistent_of_idle rfl (Nat.succ_pos 7), NumTable.plain_exact, rfl, checksHold_of_idle rfl, rfl⟩

end Sys2Proof.Machine
end

section
/-! PROOFS. The stream ports: the host's transactions, the engine's pops and pushes, and the samples the units carry
(20_memory.md R106 to R109, R112 to R115). -/

namespace Sys2Proof.Machine

/-! ### The host's transactions -/

/-- Settles O10: a push and a mark by definition, a pop by whether its port holds a unit. -/
theorem hostPortTransactions : Obligations.HostPortTransactions := by
  unfold Obligations.HostPortTransactions
  intro s
  refine ⟨fun _ => rfl, fun _ => rfl, fun _ => rfl, rfl, rfl, rfl, ?byte, ?smp, ?sym, ?dump, ?noByte, ?noSmp, ?noSym,
    ?noDump⟩
  case byte | smp | sym | dump => intro u rest hport; simp only [State.transact, State.hostPop, hport, State.answer]
  case noByte | noSmp | noSym | noDump => intro hport; simp only [State.transact, State.hostPop, hport, State.answer]

/-! ### The engine's pops -/

section
variable {s t : State} {b lo : Byte} {u : SampleUnit} {v : SymbolUnit} {recv : Bool}

theorem popByte_nil (h : s.port.byteIn = []) : s.popByte = if s.port.byteInEos then .eos else .hold := by
  unfold State.popByte; rw [h]

theorem popByte_cons {rest : List Byte} (h : s.port.byteIn = b :: rest) :
    s.popByte = .got b { s with port := { s.port with byteIn := rest } } := by
  unfold State.popByte; rw [h]

theorem popSym_nil (h : s.port.symIn = []) : s.popSym = if s.port.symInEos then .eos else .hold := by
  unfold State.popSym; rw [h]

theorem popSym_cons {rest : List SymbolUnit} (h : s.port.symIn = v :: rest) :
    s.popSym = .got v { s with port := { s.port with symIn := rest } } := by
  unfold State.popSym; rw [h]

theorem popSmp_nil (h : s.port.smpIn = []) : s.popSmp recv = if s.port.smpInEos then .eos else .hold := by
  unfold State.popSmp; rw [h]

/-- A RECV's pop with room in DUMP, or with DUMP_EN = 0 (44_frame_rx.md R325). -/
theorem popSmp_recv_cons {rest : List SampleUnit} (h : s.port.smpIn = u :: rest)
    (hroom : s.dumpEn = true → s.port.dump.length < s.par.depth.dump) :
    s.popSmp true = .got u { s with
      port := { s.port with smpIn := rest, dump := if s.dumpEn then s.port.dump ++ [u] else s.port.dump }
      reg := { s.reg with rxConsumed := s.reg.rxConsumed + 1 } } := by
  unfold State.popSmp
  rw [h]
  dsimp only
  rw [if_pos rfl, if_neg (by simpa using hroom)]

/-- A RECV holds at a unit while DUMP is full (44_frame_rx.md R326). -/
theorem popSmp_recv_full {rest : List SampleUnit} (h : s.port.smpIn = u :: rest) (hen : s.dumpEn = true)
    (hfull : s.par.depth.dump ≤ s.port.dump.length) : s.popSmp true = .hold := by
  unfold State.popSmp
  rw [h]
  dsimp only
  rw [if_pos rfl, if_pos (by simp [hen, hfull])]

/-- Settles O11: a pop by whether its port holds a unit, RECV's also by DUMP_EN and the room in DUMP; a push by
definition. -/
theorem enginePortActions : Obligations.EnginePortActions := by
  unfold Obligations.EnginePortActions
  intro s
  refine ⟨fun _ _ => popByte_cons, popByte_nil, fun _ _ => popSym_cons, popSym_nil, fun _ => popSmp_nil, ?_, fun _ => rfl,
    fun _ => rfl, fun _ => rfl⟩
  intro u rest hport
  refine ⟨popSmp_cons hport, fun hen => ?_, fun hen hroom => ?_, popSmp_recv_full hport⟩
  · have hen : s.dumpEn = false := hen
    simp [popSmp_recv_cons hport, hen]
  · have hen : s.dumpEn = true := hen
    simp [popSmp_recv_cons hport, hen, hroom]

/-! ### Samples -/

theorem popSample_real (h : s.popSmp recv = .got u t) (hpcm : s.pcmEn = false) :
    s.popSample recv = .got (some u.asReal) t := by
  unfold State.popSample; rw [h]; simp [hpcm]

theorem popSample_lowByte (h : s.popSmp recv = .got u t) (hpcm : s.pcmEn = true) (hlo : s.pcmLo = none) :
    s.popSample recv = .got none { t with pcmLo := some u.asByte } := by
  unfold State.popSample; rw [h]; simp [hpcm, hlo]

theorem popSample_highByte (h : s.popSmp recv = .got u t) (hpcm : s.pcmEn = true) (hlo : s.pcmLo = some lo) :
    s.popSample recv = .got (some (pcmValue s.num s.sigma lo u.asByte)) { t with pcmLo := none } := by
  unfold State.popSample; rw [h]; simp [hpcm, hlo]

end

/-- The 16-bit two's complement value of a high and a low byte (20_memory.md R114). -/
theorem toInt_append_bytes (hi lo : Byte) :
    let n := hi.toNat * 256 + lo.toNat
    (hi ++ lo).toInt = if n < 32768 then (n : Int) else (n : Int) - 65536 := by
  have hnat : (hi ++ lo).toNat = hi.toNat * 256 + lo.toNat := by
    rw [BitVec.toNat_append, ← Nat.shiftLeft_add_eq_or_of_lt lo.isLt, Nat.shiftLeft_eq]
  dsimp only
  rw [BitVec.toInt_eq_toNat_cond, hnat]
  split <;> split <;> omega

/-- Settles O12: a unit is a sample, a low byte, or the high byte that completes a 16-bit value. -/
theorem sampleDecoding : Obligations.SampleDecoding := by
  unfold Obligations.SampleDecoding
  rintro s t u recv hpop
  refine ⟨?_, ?_⟩
  · rintro hpcm w rfl
    exact popSample_real hpop hpcm
  · rintro hpcm b rfl
    refine ⟨popSample_lowByte hpop hpcm, fun lo hlo => ?_⟩
    dsimp only
    rw [popSample_highByte hpop hpcm hlo, ← toInt_append_bytes b lo]
    rfl

/-! ### PCM patterns -/

@[simp] theorem roundHE_intCast (n : Int) : roundHE (n : Rat) = n :=
  le_antisymm (roundHE_le (by linarith)) (le_roundHE le_rfl)

theorem sat16_eq_self {i : Int} (hlow : -32768 ≤ i) (hup : i ≤ 32767) : sat16 i = i := by unfold sat16; omega

theorem toInt_pcmPattern (num : NumTable) (sigma x : Scalar) :
    (pcmPattern num sigma x).toInt = sat16 (roundHE (num.mul x sigma)) := by
  rw [pcmPattern, BitVec.toInt_ofInt_eq_self (by decide)] <;> unfold sat16 <;> omega

/-- Inside the 16-bit range the pattern's value is the rounded product. -/
theorem toInt_pcmPattern_of_mem_range {num : NumTable} {sigma x : Scalar} (hlow : -32768 ≤ num.mul x sigma)
    (hup : num.mul x sigma ≤ 32767) : (pcmPattern num sigma x).toInt = roundHE (num.mul x sigma) := by
  rw [toInt_pcmPattern]
  exact sat16_eq_self (le_roundHE (mod_cast hlow)) (roundHE_le (by push_cast; linarith))

/-- Settles O14: below, inside and above the 16-bit range. -/
theorem pcmEncodeSaturates : Obligations.PcmEncodeSaturates := by
  unfold Obligations.PcmEncodeSaturates
  intro s x hpcm w p
  have hw : w.toInt = sat16 (roundHE p) := toInt_pcmPattern ..
  refine ⟨if_pos hpcm, fun habove => ?_, fun hbelow => ?_, fun hlow hup => ?_⟩
  · have hround : 32767 ≤ roundHE p := le_roundHE (mod_cast habove)
    rw [hw, sat16]; omega
  · have hround : roundHE p ≤ -32768 := roundHE_le (by push_cast; linarith)
    rw [hw, sat16]; omega
  · rw [show w.toInt = roundHE p from toInt_pcmPattern_of_mem_range hlow hup]
    exact abs_roundHE_sub p

theorem append_pcmBytes (w : BitVec 16) : w.extractLsb' 8 8 ++ w.extractLsb' 0 8 = w := by
  rw [BitVec.extractLsb'_append_extractLsb'_eq_extractLsb' (by decide), BitVec.extractLsb'_eq_self]

section
variable {num : NumTable} {sigma : Scalar} (hnum : num.Exact) (hsigma : 0 < sigma)
include hnum hsigma

theorem pcmPattern_pcmValue (lo hi : Byte) : pcmPattern num sigma (pcmValue num sigma lo hi) = hi ++ lo := by
  have hprod : num.mul (pcmValue num sigma lo hi) sigma = ((hi ++ lo).toInt : Scalar) := by
    rw [hnum.mul, pcmValue, hnum.div, div_mul_cancel₀ _ hsigma.ne']
  have hrange : sat16 (hi ++ lo).toInt = (hi ++ lo).toInt :=
    sat16_eq_self (BitVec.le_toInt (hi ++ lo)) (Int.le_sub_one_of_lt (BitVec.toInt_lt (x := hi ++ lo)))
  exact BitVec.eq_of_toInt_eq (by rw [toInt_pcmPattern, hprod, roundHE_intCast, hrange])

theorem abs_pcmValue_pcmPattern_sub {x : Scalar} (hx : |x * sigma| ≤ 32767) :
    let w := pcmPattern num sigma x
    |pcmValue num sigma (w.extractLsb' 0 8) (w.extractLsb' 8 8) - x| ≤ 1 / (2 * sigma) := by
  obtain ⟨hlow, hup⟩ := abs_le.1 hx
  have hw : (pcmPattern num sigma x).toInt = roundHE (x * sigma) := by
    rw [← hnum.mul]
    exact toInt_pcmPattern_of_mem_range (by rw [hnum.mul]; linarith) (by rwa [hnum.mul])
  dsimp only
  rw [pcmValue, append_pcmBytes, hw, hnum.div]
  calc |(roundHE (x * sigma) : Rat) / sigma - x|
      = |(roundHE (x * sigma) : Rat) - x * sigma| / sigma := by
        rw [← abs_of_pos hsigma, ← abs_div, abs_of_pos hsigma, sub_div, mul_div_cancel_right₀ _ hsigma.ne']
    _ ≤ 1 / 2 / sigma := by gcongr; exact (abs_roundHE_sub _).1
    _ = 1 / (2 * sigma) := div_div ..

end

/-- Settles O13: the pattern's value is an integer over σ, and rounding a product moves it by at most 1/2. -/
theorem pcmRoundTrip : Obligations.PcmRoundTrip := by
  unfold Obligations.PcmRoundTrip
  exact fun _ _ hnum hsigma =>
    ⟨pcmPattern_pcmValue hnum hsigma, fun _ hx => abs_pcmValue_pcmPattern_sub hnum hsigma hx⟩

end Sys2Proof.Machine
end

section
/-! PROOFS. Bit orders: bytes, constellation indices and blocks of a bit stream (20_memory.md R110, R111; 43_frame_tx.md
R256). -/

namespace Sys2Proof.Machine

/-! ### Bits and numbers -/

theorem natOfBits_cons_div_two (c : Bool) (cs : List Bool) : natOfBits (c :: cs) / 2 = natOfBits cs := by
  rw [natOfBits]; split <;> omega

theorem testBit_natOfBits (bits : List Bool) (i : Nat) : (natOfBits bits).testBit i = (bits[i]?).getD false := by
  induction bits generalizing i with
  | nil => simp [natOfBits]
  | cons c cs ih =>
    cases i with
    | zero => cases c <;> simp [natOfBits]
    | succ i => simp [Nat.testBit_succ, natOfBits_cons_div_two, ih]

theorem bitsOfNat_natOfBits (bits : List Bool) : bitsOfNat bits.length (natOfBits bits) = bits := by
  induction bits with
  | nil => rfl
  | cons c cs ih =>
    rw [List.length_cons, bitsOfNat, natOfBits_cons_div_two, ih, natOfBits]
    cases c <;> simp

@[simp] theorem length_bitsOfNat (n v : Nat) : (bitsOfNat n v).length = n := by
  induction n generalizing v with
  | zero => rfl
  | succ n ih => simp [bitsOfNat, ih]

theorem getElem?_bitsOfNat {n i : Nat} (hi : i < n) (v : Nat) : (bitsOfNat n v)[i]? = some (v.testBit i) := by
  induction n generalizing i v with
  | zero => omega
  | succ n ih =>
    cases i with
    | zero => rw [Nat.testBit_zero]; rfl
    | succ i => simp [bitsOfNat, Nat.testBit_succ, ih (Nat.lt_of_succ_lt_succ hi)]

theorem natOfBits_bitsOfNat (n v : Nat) : natOfBits (bitsOfNat n v) = v % 2 ^ n := by
  refine Nat.eq_of_testBit_eq fun i => ?_
  rw [testBit_natOfBits, Nat.testBit_mod_two_pow]
  by_cases hi : i < n
  · rw [getElem?_bitsOfNat hi]; simp [hi]
  · simp [hi]

theorem natOfBits_lt (bits : List Bool) : natOfBits bits < 2 ^ bits.length := by
  have h := natOfBits_bitsOfNat bits.length (natOfBits bits)
  rw [bitsOfNat_natOfBits] at h
  rw [h]
  exact Nat.mod_lt _ (by positivity)

/-! ### Bytes -/

theorem byteOfBits_bitsOfByte (b : Byte) : byteOfBits (bitsOfByte b) = b := by
  rw [byteOfBits, bitsOfByte, natOfBits_bitsOfNat, Nat.mod_eq_of_lt b.isLt, BitVec.ofNat_toNat, BitVec.setWidth_eq]

theorem bitsOfByte_byteOfBits {bits : List Bool} (h : bits.length = 8) : bitsOfByte (byteOfBits bits) = bits := by
  have hlt : natOfBits bits < 2 ^ 8 := h ▸ natOfBits_lt bits
  rw [bitsOfByte, byteOfBits, BitVec.toNat_ofNat, Nat.mod_eq_of_lt hlt, ← h, bitsOfNat_natOfBits]

/-! ### Carriers and blocks -/

theorem getElem?_blockIndices (b : Nat) {k n : Nat} (hk : k < n) (bits : List Bool) :
    (blockIndices b n bits)[k]? = some (natOfBits ((bits.drop (k * b)).take b)) := by
  induction n generalizing k bits with
  | zero => omega
  | succ n ih =>
    cases k with
    | zero => simp [blockIndices]
    | succ k => simp [blockIndices, ih (Nat.lt_of_succ_lt_succ hk), Nat.succ_mul, Nat.add_comm]

section
variable {cap : Nat}

theorem feedBits_full (acc bits : List Bool) : ∀ x ∈ (feedBits cap acc bits).1, x.length = cap := by
  fun_induction feedBits cap acc bits with
  | case1 => simp
  | case2 acc b bs hfull r ih => simpa [hfull] using ih
  | case3 acc b bs hroom ih => exact ih

theorem feedBits_flatten (acc bits : List Bool) :
    (feedBits cap acc bits).1.flatten ++ (feedBits cap acc bits).2 = acc ++ bits := by
  fun_induction feedBits cap acc bits with
  | case1 => simp
  | case2 acc b bs hfull r ih => simpa using ih
  | case3 acc b bs hroom ih => simpa using ih

theorem feedBits_left_lt (hcap : 0 < cap) {acc : List Bool} (bits : List Bool) (hacc : acc.length < cap) :
    (feedBits cap acc bits).2.length < cap := by
  fun_induction feedBits cap acc bits with
  | case1 => exact hacc
  | case2 acc b bs hfull r ih => exact ih hcap
  | case3 acc b bs hroom ih => exact ih (by simp at hroom ⊢; omega)

theorem length_padBits {bits : List Bool} (h : bits.length ≤ cap) : (padBits cap bits).length = cap := by
  simp [padBits]; omega

/-- The blocks are the full ones and, where bits are left over, one padded block. -/
theorem bitBlocks_spec (hcap : 0 < cap) (bits : List Bool) :
    (∀ x ∈ bitBlocks cap bits, x.length = cap) ∧
    ∃ z, z < cap ∧ (bitBlocks cap bits).flatten = bits ++ List.replicate z false := by
  have hfull := feedBits_full (cap := cap) [] bits
  have hflat := feedBits_flatten (cap := cap) [] bits
  have hleft := feedBits_left_lt hcap (acc := []) bits hcap
  unfold bitBlocks
  generalize feedBits cap [] bits = r at *
  dsimp only
  split
  case isTrue hnil => exact ⟨hfull, 0, hcap, by simpa [hnil] using hflat⟩
  case isFalse hne =>
    have hpos := List.length_pos_of_ne_nil hne
    refine ⟨?_, cap - r.2.length, by omega, ?_⟩
    · simp only [List.mem_append, List.mem_singleton]
      rintro x (hx | rfl)
      · exact hfull x hx
      · exact length_padBits hleft.le
    · rw [List.flatten_append, List.flatten_singleton, padBits, ← List.append_assoc, hflat, List.nil_append]

end

/-- Settles O15: bytes and indices are numbers with the given bits, and blocks are the stream cut at the capacity. -/
theorem bitOrders : Obligations.BitOrders := by
  unfold Obligations.BitOrders
  refine ⟨fun b => ⟨fun i hi => getElem?_bitsOfNat hi b.toNat, length_bitsOfNat 8 b.toNat, byteOfBits_bitsOfByte b⟩,
    fun bits h => bitsOfByte_byteOfBits h, testBit_natOfBits, bitsOfNat_natOfBits, ?_, ?_⟩
  · exact fun b k n bits hk => getElem?_blockIndices b hk bits
  · exact fun cap bits hcap => bitBlocks_spec hcap bits

end Sys2Proof.Machine
end

section
/-! PROOFS. Command words (30_encoding.md R140 to R150): the decoder answers a command exactly when the word's three
fields are 0, its opcode and its count; a word is its three fields; and the fields in arithmetic on the word's number. -/

namespace Sys2Proof

/-! ### The decoder by fields -/

theorem Instr.wellFormed_iff (i : Instr) : i.wellFormed = true ↔ instrCount i < countLimit := by
  cases i with
  | mod n | demod n | rsAdv n => exact decide_eq_true_iff
  | nop | srst | calClear | send | recv | rsInit | rsRatio => exact iff_of_true rfl (by decide)

theorem uncounted_eq_ok_iff {i j : Instr} {n : Nat} : uncounted i n = .ok j ↔ n = 0 ∧ i = j := by
  unfold uncounted; split <;> simp_all

theorem toOption_ok (i : Instr) : (.ok i : Except DecodeError Instr).toOption = some i := rfl

theorem toOption_uncounted (i : Instr) (n : Nat) : (uncounted i n).toOption = if n = 0 then some i else none := by
  unfold uncounted; split <;> rfl

/-- A word decodes to a command exactly when its fields are that command's (30_encoding.md R147). -/
theorem decodeWord_eq_ok_iff {v : Word} {i : Instr} :
    decodeWord v = .ok i ↔ rsvField v = 0#32 ∧ opField v = opcode i ∧ countField v = instrCount i := by
  constructor
  · fun_cases decodeWord v
    case case1 | case12 => nofun
    case case7 | case8 | case11 =>
      rintro ⟨⟩
      exact ⟨not_not.mp ‹¬rsvField v ≠ 0#32›, ‹_›, rfl⟩
    all_goals
      intro h
      obtain ⟨hn, rfl⟩ := uncounted_eq_ok_iff.mp h
      exact ⟨not_not.mp ‹¬rsvField v ≠ 0#32›, ‹_›, hn⟩
  · rintro ⟨hrsv, hop, hcount⟩
    cases i <;> simp [decodeWord, uncounted, hrsv, hop, hcount, opcode, instrCount]

/-! ### A word is its fields -/

theorem pack_fields (v : Word) : (rsvField v ++ opField v) ++ v.extractLsb' 0 24 = v := by
  unfold rsvField opField
  rw [BitVec.extractLsb'_append_extractLsb'_eq_extractLsb' (by rfl),
    BitVec.extractLsb'_append_extractLsb'_eq_extractLsb' (by rfl)]
  exact BitVec.extractLsb'_eq_self

theorem encode_eq_of_fields {v : Word} {i : Instr} (hrsv : rsvField v = 0#32) (hop : opField v = opcode i)
    (hcount : countField v = instrCount i) : encode i = v := by
  have hbits : BitVec.ofNat 24 (instrCount i) = v.extractLsb' 0 24 := by
    rw [← hcount]; exact BitVec.ofNat_toNat ..
  calc encode i = (rsvField v ++ opField v) ++ v.extractLsb' 0 24 := by rw [encode, hrsv, hop, hbits]
    _ = v := pack_fields v

theorem decodeWord_encode {i : Instr} (h : i.wellFormed = true) : decodeWord (encode i) = .ok i :=
  decodeWord_eq_ok_iff.mpr (Laws.Encoding.fields i (i.wellFormed_iff.mp h) h)

theorem decodeTableWord_toNat {v : Word} {i : Instr} (h : decodeWord v = .ok i) :
    decodeTableWord 64 v.toNat = some i := by
  have hv : BitVec.ofNat 64 (v.toNat % 2 ^ 64) = v := by
    rw [Nat.mod_eq_of_lt v.isLt, BitVec.ofNat_toNat, BitVec.setWidth_eq]
  rw [decodeTableWord, hv, h]

/-- Settles O1: a command's word has the command's fields, and a word that decodes is packed from the fields of the
command it decodes to. -/
theorem decodeInvertsEncode : Obligations.DecodeInvertsEncode := by
  unfold Obligations.DecodeInvertsEncode
  refine ⟨fun i hwf => ⟨decodeWord_encode hwf, decodeTableWord_toNat (decodeWord_encode hwf)⟩, fun v i hdec => ?_⟩
  obtain ⟨hrsv, hop, hcount⟩ := decodeWord_eq_ok_iff.mp hdec
  have hfits : instrCount i < countLimit := hcount ▸ (v.extractLsb' 0 24).isLt
  exact ⟨i.wellFormed_iff.mpr hfits, encode_eq_of_fields hrsv hop hcount⟩

/-! ### The fields in arithmetic -/

theorem countField_eq (v : Word) : countField v = v.toNat % 2 ^ 24 := by
  rw [countField, BitVec.extractLsb'_toNat, Nat.shiftRight_zero]

theorem toNat_opField (v : Word) : (opField v).toNat = v.toNat / 2 ^ 24 % 256 := by
  rw [opField, BitVec.extractLsb'_toNat, Nat.shiftRight_eq_div_pow]

theorem opField_eq_ofNat {v : Word} {k : Nat} (h : (opField v).toNat = k) : opField v = BitVec.ofNat 8 k := by
  rw [← h, BitVec.ofNat_toNat, BitVec.setWidth_eq]

theorem rsvField_eq_zero_iff (v : Word) : rsvField v = 0#32 ↔ v.toNat / 2 ^ 32 = 0 := by
  have hlt : v.toNat / 2 ^ 32 < 2 ^ 32 := by omega
  rw [← BitVec.toNat_inj, rsvField, BitVec.extractLsb'_toNat, Nat.shiftRight_eq_div_pow, Nat.mod_eq_of_lt hlt]
  rfl

/-- Settles O2: reserved bits first, then one case for each opcode of the table; under any other opcode the word would
have the opcode of the command it decodes to. -/
theorem decodingFunction : Obligations.DecodingFunction := by
  unfold Obligations.DecodingFunction
  intro v n plain
  have hn : countField v = n := countField_eq v
  split
  case isTrue hrsv =>
    rw [decodeWord, if_pos (mt (rsvField_eq_zero_iff v).mp hrsv)]; rfl
  case isFalse hrsv =>
    have hzero : rsvField v = 0#32 := (rsvField_eq_zero_iff v).mpr (not_not.mp hrsv)
    rw [← toNat_opField]
    split
    case h_11 =>
      cases hdec : decodeWord v with
      | error e => rfl
      | ok i =>
        obtain ⟨-, hop, -⟩ := decodeWord_eq_ok_iff.mp hdec
        cases i <;> simp_all [opcode]
    all_goals
      rename_i hop
      simp [decodeWord, toOption_ok, toOption_uncounted, hzero, opField_eq_ofNat hop, hn, plain]

/-- Settles O3: the values are the encodings, and decoding inverts encoding (`decodeWord_encode`). -/
theorem commandWordValues : Obligations.CommandWordValues := by
  unfold Obligations.CommandWordValues
  refine ⟨fun p hp => ?_, List.forall_iff_forall_mem.mp (by decide)⟩
  have hvalue : p.1.wellFormed = true ∧ encode p.1 = p.2 := by revert p; decide
  obtain ⟨hwf, henc⟩ := hvalue
  exact ⟨henc, henc ▸ decodeWord_encode hwf⟩

end Sys2Proof
end

section
/-! PROOFS. The interpolation kernel in exact arithmetic (40_resampler.md R174, R178). -/

namespace Sys2Proof.Machine

section
variable {num : NumTable} (hnum : num.Exact)
include hnum

theorem frac_eq_zero_iff (q : Scalar) : num.frac q = 0 ↔ q = (q.floor : Scalar) := by
  rw [hnum.frac_eq, sub_eq_zero]

theorem interpNeed_eq_ceil (q : Scalar) : interpNeed num q = q.ceil := by
  unfold interpNeed
  split
  case isTrue hint =>
    rw [frac_eq_zero_iff hnum] at hint
    conv_rhs => rw [hint, Rat.ceil_intCast]
  case isFalse hint =>
    rw [frac_eq_zero_iff hnum] at hint
    have habove : (q.floor : Scalar) < q := (Rat.floor_le q).lt_of_ne' hint
    have hbelow : q ≤ ((q.floor + 1 : Int) : Scalar) := (Rat.lt_floor_add_one q).le
    exact le_antisymm (Int.add_one_le_iff.2 (Rat.lt_ceil_iff.2 habove)) (Rat.ceil_le_iff.2 hbelow)

theorem interp_intCast (r : Resampler) (j : Int) : r.interp num (j : Scalar) = r.at j := by
  simp [Resampler.interp, frac_eq_zero_iff hnum, Rat.floor_intCast]

/-- The two cases of the kernel are one formula: at an integer position the second sample has weight 0. -/
theorem interp_eq_weighted (r : Resampler) (q : Scalar) :
    r.interp num q = (1 - num.frac q) * r.at q.floor + num.frac q * r.at (q.floor + 1) := by
  dsimp only [Resampler.interp]
  split
  case isTrue hint => rw [hint]; ring
  case isFalse => rw [hnum.add, hnum.mul, hnum.mul, hnum.sub]

theorem interp_between (r : Resampler) {q : Scalar} {j : Int} (hlow : (j : Scalar) ≤ q) (hup : q ≤ (j : Scalar) + 1) :
    r.interp num q = ((j : Scalar) + 1 - q) * r.at j + (q - (j : Scalar)) * r.at (j + 1) := by
  obtain rfl | hlt := hup.eq_or_lt
  · have hend : r.interp num ((j : Scalar) + 1) = r.at (j + 1) := mod_cast interp_intCast hnum r (j + 1)
    rw [hend]; ring
  · have hfloor : q.floor = j := Int.floor_eq_iff.2 ⟨hlow, hlt⟩
    rw [interp_eq_weighted hnum, hnum.frac_eq, hfloor]; ring

end

/-- Settles O26: below j + 1 the floor is j, and at j + 1 the sample j has weight 0. -/
theorem interpolationIsPiecewiseLinear : Obligations.InterpolationIsPiecewiseLinear := by
  unfold Obligations.InterpolationIsPiecewiseLinear
  exact fun num r q j hnum => ⟨interpNeed_eq_ceil hnum q, interp_intCast hnum r j, interp_between hnum r⟩

end Sys2Proof.Machine
end

section
/-! PROOFS. RS_INIT and RS_RATIO (40_resampler.md R170, R171). -/

namespace Sys2Proof.Machine

section
variable {s : State} {r : Scalar} {i : Instr}

theorem positive_iff (w : Word) : positive w = true ↔ ∃ x, f64 w = some x ∧ 0 < x := by
  have hfin : finite w = (f64 w).isSome := by rw [finite, f64]; split <;> simp [*]
  rw [positive, hfin, realOf]
  cases f64 w <;> simp

/-- The machine after a command that an idle machine's checks refuse (60_exceptions.md R372). -/
theorem exec_badConfig (hidle : s.busy = false) (hcheck : s.checks i = false) :
    exec i s = .next { s with
      reg := { s.reg with count := 0 }
      st := { s.st with done := true, result := false, cause := .badConfig } } := by
  rw [exec_eq, issued_eq (.inl hidle), issue_bad s hidle (by simpa), drive_idle rfl]
  simp [State.accept, State.endWith, (busy_eq_false_iff s).1 hidle]

/-- An idle machine's command whose checks hold begins. -/
theorem issued_begun (hidle : s.busy = false) (hcheck : s.checks i = true) : issued i s = begun i (s.accept i) := by
  rw [issued_eq (.inl hidle), issue_ok s hidle (by simpa)]

theorem exec_rsInit (hidle : s.busy = false) (hr : f64 s.cfg.ratio0 = some r) (hpos : 0 < r) :
    exec .rsInit s = .next { s with
      rs := { buf := [], pos := 0, ratio := r }
      reg := { s.reg with count := 0, rsPos := bits64 0, rsRatio := bits64 r, clkFreq := bits64 (s.num.sub r 1),
                          clkPhase := bits64 0 }
      st := { s.st with done := true, result := true, cause := .none } } := by
  have hcheck : s.checks .rsInit = true := (positive_iff _).2 ⟨r, hr, hpos⟩
  have hratio : r = s.ratio0 := by simp [State.ratio0, realOf, hr]
  rw [exec_eq, issued_begun hidle hcheck, drive_idle rfl, hratio, (busy_eq_false_iff s).1 hidle]
  rfl

theorem exec_rsRatio (hidle : s.busy = false) (hr : f64 s.cfg.ratio0 = some r) (hpos : 0 < r) :
    exec .rsRatio s = .next { s with
      rs := { s.rs with ratio := r }
      reg := { s.reg with count := 0, rsRatio := bits64 r, clkFreq := bits64 (s.num.sub r 1) }
      st := { s.st with done := true, result := true, cause := .none } } := by
  have hcheck : s.checks .rsRatio = true := (positive_iff _).2 ⟨r, hr, hpos⟩
  have hratio : r = s.ratio0 := by simp [State.ratio0, realOf, hr]
  rw [exec_eq, issued_begun hidle hcheck, drive_idle rfl, hratio, (busy_eq_false_iff s).1 hidle]
  rfl

theorem ratioCheck_eq_false (h : ∀ r, f64 s.cfg.ratio0 = some r → r ≤ 0) : s.ratioCheck = false := by
  rw [State.ratioCheck, Bool.eq_false_iff, ne_eq, positive_iff]
  rintro ⟨r, hr, hpos⟩
  exact (h r hr).not_gt hpos

end

/-- Settles O25: the ratio check decides between the two commands' effects and BAD_CONFIG. -/
theorem rsInitAndRsRatioEffects : Obligations.RsInitAndRsRatioEffects := by
  unfold Obligations.RsInitAndRsRatioEffects
  refine fun s hidle => ⟨fun r hr hpos => ⟨exec_rsInit hidle hr hpos, exec_rsRatio hidle hr hpos⟩, fun hbad i hi => ?_⟩
  have hcheck := ratioCheck_eq_false hbad
  obtain rfl | rfl : i = .rsInit ∨ i = .rsRatio := by simpa using hi
  · exact exec_badConfig hidle hcheck
  · exact exec_badConfig hidle hcheck

end Sys2Proof.Machine
end

section
/-! PROOFS. The samples a command other than RECV takes from SMP_IN (20_memory.md R109, R114; 40_resampler.md R173). -/

namespace Sys2Proof.Machine

section
variable {s t u : State}

/-- Units of SMP_IN were taken into `rs.buf`: nothing else changed, and no sample was lost or made up. -/
structure Fetched (s t : State) : Prop where
  frame : t = { s with
    port := { s.port with smpIn := t.port.smpIn }
    pcmLo := t.pcmLo
    rs := { s.rs with buf := t.rs.buf } }
  smpIn : t.port.smpIn <:+ s.port.smpIn
  buf : s.rs.buf <+: t.rs.buf
  samples : t.allSamples = s.allSamples
  pcmLo : s.pcmEn = false → t.pcmLo = s.pcmLo

theorem Fetched.refl (s : State) : Fetched s s := ⟨rfl, List.suffix_rfl, List.prefix_rfl, rfl, fun _ => rfl⟩

theorem Fetched.pcmEn (h : Fetched s t) : t.pcmEn = s.pcmEn := by rw [h.frame]; rfl

theorem Fetched.trans (h : Fetched s t) (k : Fetched t u) : Fetched s u where
  frame := k.frame.trans (by rw [h.frame])
  smpIn := k.smpIn.trans h.smpIn
  buf := h.buf.trans k.buf
  samples := k.samples.trans h.samples
  pcmLo hpcm := (k.pcmLo (h.pcmEn.trans hpcm)).trans (h.pcmLo hpcm)

/-- The sample a unit of SMP_IN completes: with PCM_EN = 1 none or the one its pending low byte begins
(20_memory.md R109, R114). -/
def State.completed (s : State) (x : SampleUnit) : List Scalar :=
  if s.pcmEn then
    match s.pcmLo with
    | none => []
    | some lo => [pcmValue s.num s.sigma lo x.asByte]
  else [x.asReal]

/-- The PCM byte that is pending after a unit of SMP_IN (20_memory.md R114). -/
def State.pendingAfter (s : State) (x : SampleUnit) : Option Byte :=
  if s.pcmEn then
    match s.pcmLo with
    | none => some x.asByte
    | some _ => none
  else s.pcmLo

/-- The state after the unit `x` is taken from SMP_IN, where `rest` stays. -/
def State.takeUnit (s : State) (x : SampleUnit) (rest : List SampleUnit) : State :=
  { s with
    port := { s.port with smpIn := rest }
    pcmLo := s.pendingAfter x
    rs := { s.rs with buf := s.rs.buf ++ s.completed x } }

theorem fetch_cons {i : Int} {x : SampleUnit} {rest : List SampleUnit} (hin : s.port.smpIn = x :: rest)
    (hi : (s.rs.buf.length : Int) ≤ i) : s.fetch false i = .progress (s.takeUnit x rest) := by
  have hpop := popSmp_cons hin
  rw [State.fetch, if_neg hi.not_gt, State.takeUnit, State.pendingAfter, State.completed]
  cases hpcm : s.pcmEn with
  | false => simp [popSample_real hpop hpcm, State.appendSample]
  | true =>
    cases hlo : s.pcmLo with
    | none => simp [popSample_lowByte hpop hpcm hlo]
    | some lo => simp [popSample_highByte hpop hpcm hlo, State.appendSample]

theorem fetch_nil {i : Int} (hin : s.port.smpIn = []) (hi : (s.rs.buf.length : Int) ≤ i) :
    s.fetch false i = if s.port.smpInEos then .eos else .hold := by
  rw [State.fetch, if_neg hi.not_gt, State.popSample, popSmp_nil hin]
  cases s.port.smpInEos <;> rfl

theorem sampleStream_cons (s : State) (x : SampleUnit) (rest : List SampleUnit) :
    sampleStream s.num s.pcmEn s.sigma s.pcmLo (x :: rest) =
      s.completed x ++ sampleStream s.num s.pcmEn s.sigma (s.pendingAfter x) rest := by
  unfold State.completed State.pendingAfter
  cases hpcm : s.pcmEn with
  | false => simp [sampleStream]
  | true => cases s.pcmLo <;> simp [sampleStream]

theorem fetched_takeUnit {x : SampleUnit} {rest : List SampleUnit} (hin : s.port.smpIn = x :: rest) :
    Fetched s (s.takeUnit x rest) where
  frame := rfl
  smpIn := hin ▸ List.suffix_cons ..
  buf := List.prefix_append ..
  samples := by
    rw [State.allSamples, State.allSamples, hin, sampleStream_cons, ← List.append_assoc]
    rfl
  pcmLo hpcm := by simp [State.takeUnit, State.pendingAfter, hpcm]

theorem fetched_fetch {i : Int} (h : s.fetch false i = .progress t) : Fetched s t := by
  obtain ⟨hi, -⟩ := fetch_progress h
  cases hin : s.port.smpIn with
  | nil => rw [fetch_nil hin hi] at h; split at h <;> cases h
  | cons x rest => rw [fetch_cons hin hi] at h; cases h; exact fetched_takeUnit hin

end

end Sys2Proof.Machine
end

section
/-! PROOFS. What RS_ADV and DEMOD reach, however far a turn takes them (40_resampler.md R172;
42_demodulator.md R220). -/

namespace Sys2Proof.Machine

section
variable {s t u : State} {c : Instr} {n : Nat} {ph : Phase}

/-- What RS_ADV and DEMOD reach but for their fixed actions: acceptance, the samples they take, resampler steps, the
end. -/
structure ResampleFrame (s t : State) : Prop where
  frame : t = { s with
    eng := t.eng
    st := { s.st with done := t.st.done, result := t.st.result, cause := t.st.cause }
    reg := { s.reg with count := t.reg.count, rsPos := t.reg.rsPos }
    port := { s.port with smpIn := t.port.smpIn }
    pcmLo := t.pcmLo
    rs := { s.rs with buf := t.rs.buf, pos := t.rs.pos } }
  smpIn : t.port.smpIn <:+ s.port.smpIn
  buf : s.rs.buf <+: t.rs.buf

/-- What RS_ADV reaches. -/
structure AdvFrame (s t : State) : Prop where
  frame : t = { s with
    eng := t.eng
    st := { s.st with done := t.st.done, result := t.st.result, cause := t.st.cause }
    reg := { s.reg with count := t.reg.count, rsPos := t.reg.rsPos }
    port := { s.port with smpIn := t.port.smpIn, smpOut := t.port.smpOut }
    pcmLo := t.pcmLo
    rs := { s.rs with buf := t.rs.buf, pos := t.rs.pos } }
  smpOut : s.port.smpOut <+: t.port.smpOut
  smpIn : t.port.smpIn <:+ s.port.smpIn
  buf : s.rs.buf <+: t.rs.buf

/-- What DEMOD reaches. -/
structure DemodFrame (s t : State) : Prop where
  frame : t = { s with
    eng := t.eng
    st := { s.st with done := t.st.done, result := t.st.result, cause := t.st.cause }
    reg := { s.reg with count := t.reg.count, rsPos := t.reg.rsPos, rsRatio := t.reg.rsRatio,
                        clkFreq := t.reg.clkFreq, clkPhase := t.reg.clkPhase }
    port := { s.port with smpIn := t.port.smpIn, symOut := t.port.symOut }
    pcmLo := t.pcmLo
    rs := t.rs }
  symOut : s.port.symOut <+: t.port.symOut
  smpIn : t.port.smpIn <:+ s.port.smpIn
  buf : s.rs.buf <+: t.rs.buf

theorem AdvFrame.of_resample (h : ResampleFrame s t) : AdvFrame s t where
  frame := by rw [h.frame]
  smpOut := by rw [h.frame]
  smpIn := h.smpIn
  buf := h.buf

theorem AdvFrame.trans (h : AdvFrame s t) (k : AdvFrame t u) : AdvFrame s u where
  frame := k.frame.trans (by rw [h.frame])
  smpOut := h.smpOut.trans k.smpOut
  smpIn := k.smpIn.trans h.smpIn
  buf := h.buf.trans k.buf

theorem DemodFrame.of_resample (h : ResampleFrame s t) : DemodFrame s t where
  frame := by rw [h.frame]
  symOut := by rw [h.frame]
  smpIn := h.smpIn
  buf := h.buf

theorem DemodFrame.trans (h : DemodFrame s t) (k : DemodFrame t u) : DemodFrame s u where
  frame := k.frame.trans (by rw [h.frame])
  symOut := h.symOut.trans k.symOut
  smpIn := k.smpIn.trans h.smpIn
  buf := h.buf.trans k.buf

/-! ### The steps -/

theorem resampleFrame_load (s : State) (todo : List Act) (ph : Phase) : ResampleFrame s (s.load todo ph) where
  frame := by rw [load_frame]
  smpIn := by simp
  buf := by simp

theorem resampleFrame_rsStep_load (s : State) (todo : List Act) (ph : Phase) :
    ResampleFrame s (s.rsStep.load todo ph) where
  frame := by rw [load_frame]; rfl
  smpIn := by rw [load_port]; exact List.suffix_rfl
  buf := by rw [load_rs]; exact List.prefix_rfl

theorem resampleFrame_endWith (s : State) (e : Cause) : ResampleFrame s (s.endWith e) :=
  ⟨rfl, List.suffix_rfl, List.prefix_rfl⟩

theorem resampleFrame_fetch {i : Int} (h : s.fetch false i = .progress t) : ResampleFrame s t := by
  obtain ⟨hframe, hin, hbuf, -, -⟩ := fetched_fetch h
  exact ⟨by rw [hframe], hin, hbuf⟩

/-- The engine has ended the command, or stands in its rule with its own actions fixed. -/
def State.StandsIn (s : State) (c : Instr) : Prop :=
  s.eng = .idle ∨
    ∃ todo ph, s.eng = .run c todo ph ∧ ph.belongs c = true ∧ todo.all (Act.belongs c) = true

/-- A resampling command's rule fixes actions, takes a unit, makes a resampler step or ends. -/
theorem resampling_stepPhase (hc : c = .rsAdv n ∨ c = .demod n) (he : s.eng = .run c [] ph) (hph : ph.belongs c = true)
    (h : s.stepPhase ph = some t) : ResampleFrame s t ∧ t.StandsIn c := by
  have hend : ResampleFrame s (s.endWith .none) ∧ (s.endWith .none).StandsIn c := ⟨resampleFrame_endWith _ _, .inl rfl⟩
  have hfetch {v : State} (hf : s.fetch false s.rsNeed = .progress v) : ResampleFrame s v ∧ v.StandsIn c :=
    ⟨resampleFrame_fetch hf, .inr ⟨[], ph, (fetch_control hf).1.trans he, hph, rfl⟩⟩
  have hgo {todo : List Act} {q : Phase} (hq : q.belongs c = true) (htodo : todo.all (Act.belongs c) = true) :
      ResampleFrame s (s.rsStep.load todo q) ∧ (s.rsStep.load todo q).StandsIn c :=
    ⟨resampleFrame_rsStep_load _ _ _, .inr ⟨todo, q, load_eng (s := s.rsStep) he _ _, hq, htodo⟩⟩
  obtain rfl | rfl := hc
  · cases ph with
    | adv left =>
      cases left with
      | zero => cases h; exact hend
      | succ left =>
        simp only [State.stepPhase, State.stepAdv] at h
        split at h <;> cases h
        · exact hend
        · exact hfetch ‹_›
        · exact hgo rfl (by rw [List.all_append, pushSampleActs_belong fun _ => rfl]; rfl)
    | _ => cases hph
  · cases ph with
    | demod left win =>
      cases left with
      | zero => cases h; exact hend
      | succ left =>
        simp only [State.stepPhase, State.stepDemod] at h
        split at h
        · cases h
        · cases h; exact hend
        · cases h; exact hfetch ‹_›
        · split at h <;> cases h
          · exact hgo rfl (demodBlockActs_belong n _ _)
          · exact hgo rfl rfl
    | _ => cases hph

theorem standsIn_perform {a : Act} {rest : List Act} (he : s.eng = .run c (a :: rest) ph) (hph : ph.belongs c = true)
    (hall : (a :: rest).all (Act.belongs c) = true) (h : (s.load rest ph).perform a = some t) : t.StandsIn c := by
  obtain ⟨e, -, rfl⟩ | ⟨heng, -⟩ := perform_control h
  · exact .inl rfl
  · exact .inr ⟨rest, ph, heng.trans (load_eng he _ _), hph, (Bool.and_eq_true_iff.1 hall).2⟩

theorem advFrame_perform {a : Act} (ha : a.belongs (.rsAdv n) = true) (h : s.perform a = some t) : AdvFrame s t := by
  cases perform_cases h with
  | pushSmp v => exact ⟨rfl, List.prefix_append .., List.suffix_rfl, List.prefix_rfl⟩
  | countUp => exact ⟨rfl, List.prefix_rfl, List.suffix_rfl, List.prefix_rfl⟩
  | _ => cases ha

theorem demodFrame_perform {a : Act} (ha : a.belongs (.demod n) = true) (h : s.perform a = some t) :
    DemodFrame s t := by
  cases perform_cases h with
  | pushSym v => exact ⟨rfl, List.prefix_append .., List.suffix_rfl, List.prefix_rfl⟩
  | countUp => exact ⟨rfl, List.prefix_rfl, List.suffix_rfl, List.prefix_rfl⟩
  | track z => exact ⟨rfl, List.prefix_rfl, List.suffix_rfl, List.prefix_rfl⟩
  | _ => cases ha

/-! ### A turn -/

section
variable {R : State → State → Prop} (hc : c = .rsAdv n ∨ c = .demod n)
  (hresample : ∀ s t, ResampleFrame s t → R s t)
  (hperform : ∀ s a t, a.belongs c = true → s.perform a = some t → R s t)
  (htrans : ∀ s t u, R s t → R t u → R s u)
include hc hresample hperform htrans

theorem resampling_engineStep (hin : s.StandsIn c) (h : s.engineStep = some t) : R s t ∧ t.StandsIn c := by
  obtain hidle | ⟨todo, ph, he, hph, hall⟩ := hin
  · rw [engineStep_idle hidle] at h; cases h
  · cases todo with
    | nil =>
      rw [engineStep_phase he] at h
      exact (resampling_stepPhase hc he hph h).imp_left (hresample _ _)
    | cons a rest =>
      rw [engineStep_act he] at h
      have ha : a.belongs c = true := (Bool.and_eq_true_iff.1 hall).1
      exact ⟨htrans _ _ _ (hresample _ _ (resampleFrame_load ..)) (hperform _ _ _ ha h), standsIn_perform he hph hall h⟩

/-- What acceptance, the resampler and the fixed actions reach, a turn of a resampling command does. -/
theorem resampling_exec (hidle : s.busy = false) (h : exec c s = .next t) : R s t := by
  have hissued : R s (issued c s) ∧ (issued c s).StandsIn c := by
    generalize hi : issued c s = v
    cases issued_cases hi with
    | abort hb | reject hb => rw [hidle] at hb; cases hb
    | bad => exact ⟨hresample _ _ ⟨rfl, List.suffix_rfl, List.prefix_rfl⟩, .inl rfl⟩
    | begin =>
      have haccept : R s (s.accept c) := hresample _ _ ⟨rfl, List.suffix_rfl, List.prefix_rfl⟩
      have hend : R s ((s.accept c).endWith .none) ∧ ((s.accept c).endWith .none).StandsIn c :=
        ⟨htrans _ _ _ haccept (hresample _ _ (resampleFrame_endWith ..)), .inl rfl⟩
      have hload {ph : Phase} (hph : ph.belongs c = true) :
          R s ((s.accept c).load [] ph) ∧ ((s.accept c).load [] ph).StandsIn c :=
        ⟨htrans _ _ _ haccept (hresample _ _ (resampleFrame_load ..)), .inr ⟨[], ph, rfl, hph, rfl⟩⟩
      obtain rfl | rfl := hc
      · exact startCounted_keeps (P := fun v => R s v ∧ v.StandsIn _) n _ hend (hload rfl)
      · exact startCounted_keeps (P := fun v => R s v ∧ v.StandsIn _) n _ hend (hload rfl)
  rw [exec_eq] at h
  cases h
  refine (runEngine_keeps (P := fun v => R s v ∧ v.StandsIn c) (fun v w hv he => ?_) _ hissued).1
  obtain ⟨hreach, hin⟩ := hv
  exact (resampling_engineStep hc hresample hperform htrans hin he).imp_left (htrans _ _ _ hreach)

end

theorem advFrame_exec (hidle : s.busy = false) (h : exec (.rsAdv n) s = .next t) : AdvFrame s t :=
  resampling_exec (.inl rfl) (fun _ _ => .of_resample) (fun _ _ _ => advFrame_perform) (fun _ _ _ => .trans) hidle h

theorem demodFrame_exec (hidle : s.busy = false) (h : exec (.demod n) s = .next t) : DemodFrame s t :=
  resampling_exec (.inr rfl) (fun _ _ => .of_resample) (fun _ _ _ => demodFrame_perform) (fun _ _ _ => .trans) hidle h

end

/-- Settles O59: every engine step of the two commands takes samples, moves the resampler, performs one of the command's
own actions or ends it. -/
theorem frameOfAdvAndDemod : Obligations.FrameOfAdvAndDemod := by
  unfold Obligations.FrameOfAdvAndDemod
  refine fun s t n hidle => ⟨fun h => ?_, fun h => ?_⟩
  · obtain ⟨hframe, hout, hin, hbuf⟩ := advFrame_exec hidle h
    exact ⟨hframe, hout, hin, hbuf⟩
  · obtain ⟨hframe, hout, hin, hbuf⟩ := demodFrame_exec hidle h
    exact ⟨hframe, hout, hin, hbuf⟩

end Sys2Proof.Machine
end

section
/-! PROOFS. Runs that end within a turn, whatever the burst is (log entry 5), and the runs of the streaming commands'
parts: the units a resampler step needs, the pushes to SMP_OUT. -/

namespace Sys2Proof.Machine

/-! ### Runs that end within a turn -/

section
variable {s t u v : State} {c : Instr} {n : Nat} {ph : Phase}

/-- The engine comes from `s` to `t`, in as many steps whatever its share of a turn is. -/
def State.Reaches (s t : State) : Prop :=
  ∃ k, ∀ b, State.runEngine k { s with burst := b } = { t with burst := b }

theorem State.Reaches.refl (s : State) : s.Reaches s := ⟨0, fun _ => rfl⟩

theorem State.Reaches.trans (h : s.Reaches t) (h' : t.Reaches u) : s.Reaches u := by
  obtain ⟨j, hj⟩ := h
  obtain ⟨k, hk⟩ := h'
  exact ⟨j + k, fun b => by rw [runEngine_add, hj, hk]⟩

theorem reaches_of_step (h : ∀ b, State.engineStep { s with burst := b } = some { t with burst := b }) : s.Reaches t :=
  ⟨1, fun b => runEngine_some (h b) 0⟩

/-- A command that comes to its end does so in one turn, from some burst on. -/
theorem exec_of_reaches (hissued : ∀ b, issued c { s with burst := b } = { v with burst := b }) (h : v.Reaches t)
    (hidle : t.eng = .idle) : ∃ k, ∀ b, k ≤ b → exec c { s with burst := b } = .next { t with burst := b } := by
  obtain ⟨k, hk⟩ := h
  refine ⟨k, fun b hb => ?_⟩
  have hrest : (State.runEngine k { v with burst := b }).engineStep = none := by rw [hk]; exact engineStep_idle hidle
  rw [exec_eq, hissued, ← hk, ← runEngine_of_rest hb hrest]
  rfl

theorem startCounted_burst {todo : List Act} (he : s.eng = .run c todo ph) (b n : Nat) (q : Phase) :
    State.startCounted { s with burst := b } n q = { s.startCounted n q with burst := b } := by
  unfold State.startCounted
  split
  · rfl
  · rw [load_run (s := { s with burst := b }) he, load_run he]

/-! ### Fetching and pushing -/

/-- A phase that takes the units its resampler step needs takes them, or empties SMP_IN. -/
theorem reaches_fetched (hph : ∀ u v : State, u.fetch false u.rsNeed = .progress v → u.stepPhase ph = some v)
    (he : s.eng = .run c [] ph) :
    ∃ u, s.Reaches u ∧ Fetched s u ∧ (u.rsNeed < u.rs.buf.length ∨ u.port.smpIn = []) := by
  generalize hin : s.port.smpIn = l
  induction l generalizing s with
  | nil => exact ⟨s, .refl s, .refl s, .inr hin⟩
  | cons x rest ih =>
    obtain hneed | hneed := lt_or_ge s.rsNeed s.rs.buf.length
    · exact ⟨s, .refl s, .refl s, .inl hneed⟩
    · have hstep : s.Reaches (s.takeUnit x rest) := reaches_of_step fun b => by
        rw [engineStep_phase (s := { s with burst := b }) he]
        exact hph _ _ (fetch_cons (s := { s with burst := b }) hin hneed)
      obtain ⟨u, hreach, hu, hend⟩ := ih (s := s.takeUnit x rest) he rfl
      exact ⟨u, hstep.trans hreach, (fetched_takeUnit hin).trans hu, hend⟩

theorem reaches_pushSmp {xs : List SampleUnit} {rest : List Act} (he : s.eng = .run c (xs.map .pushSmp ++ rest) ph)
    (hroom : s.port.smpOut.length + xs.length ≤ s.par.depth.smpOut) :
    s.Reaches { s with eng := .run c rest ph, port := { s.port with smpOut := s.port.smpOut ++ xs } } := by
  induction xs generalizing s with
  | nil =>
    rw [List.append_nil, ← show s.eng = .run c rest ph from he]
    exact .refl s
  | cons x xs ih =>
    rw [List.length_cons] at hroom
    have hpush : s.Reaches { s with
        eng := .run c (xs.map .pushSmp ++ rest) ph
        port := { s.port with smpOut := s.port.smpOut ++ [x] } } := reaches_of_step fun b => by
      rw [engineStep_act (s := { s with burst := b }) he, load_run (s := { s with burst := b }) he]
      exact pushSmp_eq_some.2 ⟨by dsimp only; omega, rfl⟩
    rw [List.append_cons]
    exact hpush.trans (ih rfl (by rw [List.length_append, List.length_singleton]; dsimp only; omega))

end

end Sys2Proof.Machine
end

section
/-! PROOFS. RS_ADV n takes n resampler steps over the buffer and SMP_IN, fewer where the input ends
(40_resampler.md R172, R175); at ratio 1 it puts out its input (R177). -/

namespace Sys2Proof.Machine

/-! ### The outputs over a longer buffer -/

section
variable {num : NumTable} {ratio pos : Scalar} {r r' : Resampler} {xs ys : List Scalar} {n : Nat}

theorem at_of_prefix (hbuf : r.buf <+: r'.buf) {i : Int} (hi : i < r.buf.length) : r'.at i = r.at i := by
  unfold Resampler.at
  split
  · rfl
  · obtain ⟨zs, hzs⟩ := hbuf
    rw [← hzs, List.getElem?_append_left (by omega)]

theorem interp_of_prefix (hbuf : r.buf <+: r'.buf) {q : Scalar} (hneed : interpNeed num q < r.buf.length) :
    r'.interp num q = r.interp num q := by
  dsimp only [Resampler.interp]
  unfold interpNeed at hneed
  split at hneed
  case isTrue hint => rw [if_pos hint, if_pos hint, at_of_prefix hbuf hneed]
  case isFalse hint =>
    rw [if_neg hint, if_neg hint, at_of_prefix hbuf hneed, at_of_prefix hbuf (by omega)]

/-- The samples of a step are in the buffer already: more samples after them change nothing. -/
theorem rsOutputs_succ (hbuf : xs <+: ys) (hneed : interpNeed num pos < xs.length) :
    rsOutputs num ys ratio (n + 1) pos =
      Resampler.interp { buf := xs, pos := pos, ratio := ratio } num pos ::
        rsOutputs num ys ratio n (num.add pos ratio) := by
  have hlen : (xs.length : Int) ≤ ys.length := mod_cast hbuf.length_le
  rw [rsOutputs, if_pos (by omega), interp_of_prefix (r := { buf := xs, pos := pos, ratio := ratio }) hbuf hneed]

theorem rsOutputs_exhausted (hneed : (xs.length : Int) ≤ interpNeed num pos) : rsOutputs num xs ratio n pos = [] := by
  cases n with
  | zero => rfl
  | succ n => rw [rsOutputs, if_neg hneed.not_gt]

end

/-! ### RS_ADV -/

section
variable {s t u : State} {c : Instr} {n : Nat}

/-- RS_ADV n has come from `s` to its end in `t`: its outputs, the buffer's own in the end, are pushed and counted, the
position moved by one ratio for each, and no sample is lost or made up. -/
structure Advanced (s : State) (n : Nat) (t : State) : Prop where
  eng : t.eng = .idle
  st : t.st = s.st.ended .none
  smpOut : t.port.smpOut = s.port.smpOut ++ (s.rsAhead n).flatMap s.sampleUnits
  count : t.reg.count = s.reg.count + BitVec.ofNat 64 (s.rsAhead n).length
  pos : t.rs.pos = rsPosition s.num s.rs.ratio (s.rsAhead n).length s.rs.pos
  mirror : s.reg.rsPos = bits64 s.rs.pos → t.reg.rsPos = bits64 t.rs.pos
  samples : t.allSamples = s.allSamples
  buf : s.rs.buf <+: t.rs.buf
  outputs : rsOutputs s.num t.rs.buf s.rs.ratio n s.rs.pos = s.rsAhead n
  pcmLo : s.pcmEn = false → t.pcmLo = s.pcmLo

/-- The state after a resampler step's value is pushed and counted, `left` samples being still to produce. -/
def State.produced (s : State) (c : Instr) (left : Nat) : State :=
  { s.rsStep.countUp with
    eng := .run c [] (.adv left)
    port := { s.port with smpOut := s.port.smpOut ++ s.sampleUnits s.rsValue } }

theorem rsAhead_succ (hneed : s.rsNeed < s.rs.buf.length) :
    s.rsAhead (n + 1) = s.rsValue :: (s.produced c n).rsAhead n :=
  rsOutputs_succ (List.prefix_append ..) hneed

theorem rsAhead_of_fetched (h : Fetched s u) : u.rsAhead n = s.rsAhead n := by
  rw [State.rsAhead, h.samples, h.frame]; rfl

theorem sampleUnits_of_fetched (h : Fetched s u) : u.sampleUnits = s.sampleUnits := by
  rw [h.frame]; rfl

theorem advanced_endWith (hnil : s.rsAhead n = []) (hout : rsOutputs s.num s.rs.buf s.rs.ratio n s.rs.pos = []) :
    Advanced s n (s.endWith .none) where
  eng := rfl
  st := rfl
  smpOut := by simp [hnil]
  count := by simp [hnil]
  pos := by simp [hnil, rsPosition]
  mirror h := h
  samples := rfl
  buf := List.prefix_rfl
  outputs := hout.trans hnil.symm
  pcmLo _ := rfl

theorem Advanced.of_fetched (h : Fetched s u) (k : Advanced u n t) : Advanced s n t where
  eng := k.eng
  st := by rw [k.st, h.frame]
  smpOut := by rw [k.smpOut, rsAhead_of_fetched h, sampleUnits_of_fetched h, h.frame]
  count := by rw [k.count, rsAhead_of_fetched h, h.frame]
  pos := by rw [k.pos, rsAhead_of_fetched h, h.frame]
  mirror hpos := k.mirror (by rw [h.frame]; exact hpos)
  samples := k.samples.trans h.samples
  buf := h.buf.trans k.buf
  outputs := by rw [← rsAhead_of_fetched h, ← k.outputs, h.frame]
  pcmLo hpcm := (k.pcmLo (h.pcmEn.trans hpcm)).trans (h.pcmLo hpcm)

theorem Advanced.of_produced (hneed : s.rsNeed < s.rs.buf.length) (k : Advanced (s.produced c n) n t) :
    Advanced s (n + 1) t where
  eng := k.eng
  st := k.st
  smpOut := by
    rw [k.smpOut, rsAhead_succ (c := c) hneed, List.flatMap_cons]
    exact List.append_assoc ..
  count := by
    rw [k.count, rsAhead_succ (c := c) hneed, List.length_cons, Nat.add_comm, BitVec.ofNat_add]
    exact BitVec.add_assoc ..
  pos := by rw [k.pos, rsAhead_succ (c := c) hneed]; rfl
  mirror _ := k.mirror rfl
  samples := k.samples
  buf := k.buf
  outputs := by
    rw [rsAhead_succ (c := c) hneed, rsOutputs_succ k.buf hneed]
    exact congrArg (s.rsValue :: ·) k.outputs
  pcmLo := k.pcmLo

theorem stepAdv_ready (hneed : s.rsNeed < s.rs.buf.length) :
    s.stepAdv (n + 1) = some (s.rsStep.load (s.pushSampleActs s.rsValue ++ [.countUp]) (.adv n)) := by
  rw [State.stepAdv, fetch_ready.2 hneed]

theorem stepAdv_progress (h : s.fetch false s.rsNeed = .progress t) : s.stepAdv (n + 1) = some t := by
  rw [State.stepAdv, h]

theorem stepAdv_eos (h : s.fetch false s.rsNeed = .eos) : s.stepAdv (n + 1) = some (s.endWith .none) := by
  rw [State.stepAdv, h]

/-- RS_ADV's resampler step, its pushes and its count. -/
theorem reaches_produced (he : s.eng = .run c [] (.adv (n + 1))) (hneed : s.rsNeed < s.rs.buf.length)
    (hroom : s.port.smpOut.length + (s.sampleUnits s.rsValue).length ≤ s.par.depth.smpOut) :
    s.Reaches (s.produced c n) := by
  have hresample : s.Reaches
      { s.rsStep with eng := .run c (s.pushSampleActs s.rsValue ++ [.countUp]) (.adv n) } := reaches_of_step fun b => by
    rw [engineStep_phase (s := { s with burst := b }) he]
    refine (stepAdv_ready (s := { s with burst := b }) hneed).trans (congrArg some ?_)
    exact load_run (s := State.rsStep { s with burst := b }) he _ _
  exact (hresample.trans (reaches_pushSmp rfl hroom)).trans (reaches_of_step fun b => rfl)

/-- RS_ADV comes to its end on marked input, or on enough of it, with room for its outputs. -/
theorem reaches_advanced (he : s.eng = .run c [] (.adv n))
    (hinput : s.port.smpInEos = true ∨ (s.rsAhead n).length = n)
    (hroom : s.port.smpOut.length + ((s.rsAhead n).flatMap s.sampleUnits).length ≤ s.par.depth.smpOut) :
    ∃ t, s.Reaches t ∧ Advanced s n t := by
  have hend {s : State} {m : Nat} (he : s.eng = .run c [] (.adv m)) (h : ∀ b, State.stepAdv { s with burst := b } m =
      some (State.endWith { s with burst := b } .none)) : s.Reaches (s.endWith .none) :=
    reaches_of_step fun b => (engineStep_phase (s := { s with burst := b }) he).trans (h b)
  induction n generalizing s with
  | zero => exact ⟨_, hend he fun b => rfl, advanced_endWith rfl rfl⟩
  | succ n ih =>
    obtain ⟨u, hreach, hu, hstop⟩ := reaches_fetched (ph := .adv (n + 1)) (fun _ _ => stepAdv_progress) he
    rw [← rsAhead_of_fetched hu] at hinput hroom
    rw [← sampleUnits_of_fetched hu] at hroom
    rw [show s.port.smpInEos = u.port.smpInEos by rw [hu.frame]] at hinput
    rw [show s.port.smpOut = u.port.smpOut by rw [hu.frame], show s.par = u.par by rw [hu.frame]] at hroom
    have heu : u.eng = .run c [] (.adv (n + 1)) := by rw [hu.frame]; exact he
    suffices h : ∃ t, u.Reaches t ∧ Advanced u (n + 1) t by
      obtain ⟨t, ht, hadv⟩ := h
      exact ⟨t, hreach.trans ht, hadv.of_fetched hu⟩
    obtain hneed | hneed := lt_or_ge u.rsNeed u.rs.buf.length
    · rw [rsAhead_succ (c := c) hneed] at hinput hroom
      rw [List.flatMap_cons, List.length_append] at hroom
      have hproduced : u.Reaches (u.produced c n) := reaches_produced heu hneed (by omega)
      obtain ⟨t, ht, hadv⟩ := ih (s := u.produced c n) rfl (hinput.imp_right Nat.succ.inj)
        (by rw [← Nat.add_assoc, ← List.length_append] at hroom; exact hroom)
      exact ⟨t, hproduced.trans ht, hadv.of_produced hneed⟩
    · have hempty : u.port.smpIn = [] := hstop.resolve_left hneed.not_gt
      have hall : u.allSamples = u.rs.buf := by simp [State.allSamples, hempty, sampleStream]
      have hnone : rsOutputs u.num u.rs.buf u.rs.ratio (n + 1) u.rs.pos = [] := rsOutputs_exhausted hneed
      have hnil : u.rsAhead (n + 1) = [] := by rw [State.rsAhead, hall, hnone]
      have heos : u.port.smpInEos = true := hinput.resolve_right (by simp [hnil])
      refine ⟨_, hend heu fun b => stepAdv_eos ?_, advanced_endWith hnil hnone⟩
      exact (fetch_nil (s := { u with burst := b }) hempty hneed).trans (if_pos heos)

/-- An idle machine's RS_ADV n comes to its end within one turn, from some burst on. -/
theorem exec_rsAdv (hidle : s.busy = false) (hcheck : s.checks (.rsAdv n) = true)
    (hinput : s.port.smpInEos = true ∨ (s.rsAhead n).length = n)
    (hroom : s.port.smpOut.length + ((s.rsAhead n).flatMap s.sampleUnits).length ≤ s.par.depth.smpOut) :
    ∃ t, Advanced (s.accept (.rsAdv n)) n t ∧
      ∃ k, ∀ b, k ≤ b → exec (.rsAdv n) { s with burst := b } = .next { t with burst := b } := by
  have hissued (b : Nat) : issued (.rsAdv n) { s with burst := b } =
      { (s.accept (.rsAdv n)).startCounted n (.adv n) with burst := b } := by
    rw [issued_begun (s := { s with burst := b }) (i := .rsAdv n) hidle hcheck]
    exact startCounted_burst (s := s.accept (.rsAdv n)) rfl b n (.adv n)
  suffices h : ∃ t, Advanced (s.accept (.rsAdv n)) n t ∧
      ((s.accept (.rsAdv n)).startCounted n (.adv n)).Reaches t by
    obtain ⟨t, hadv, hreach⟩ := h
    exact ⟨t, hadv, exec_of_reaches hissued hreach hadv.eng⟩
  unfold State.startCounted
  split
  case isTrue hn => subst hn; exact ⟨_, advanced_endWith rfl rfl, .refl _⟩
  case isFalse =>
    obtain ⟨t, hreach, hadv⟩ := reaches_advanced (s := (s.accept (.rsAdv n)).load [] (.adv n)) rfl hinput hroom
    exact ⟨t, { hadv with }, hreach⟩

end

/-- Settles O28: by induction on n, RS_ADV fetches what its next step needs and takes the step, or finds the input
ended. -/
theorem rsAdvComputes : Obligations.RsAdvComputes := by
  unfold Obligations.RsAdvComputes
  intro s n hidle hmirrors hcheck ys hinput hroom
  obtain ⟨t, hadv, k, hexec⟩ := exec_rsAdv hidle hcheck hinput hroom
  refine ⟨k, fun b hb => ⟨{ t with burst := b }, hexec b hb, ?_⟩⟩
  have hframe := (advFrame_exec (s := { s with burst := b }) hidle (hexec b hb)).frame
  have hratio : t.rs.ratio = s.rs.ratio := congrArg (·.rs.ratio) hframe
  have hreg : t.reg = { s.reg with count := t.reg.count, rsPos := t.reg.rsPos } := congrArg State.reg hframe
  have hcount : t.reg.count = BitVec.ofNat 64 ys.length := hadv.count.trans (BitVec.zero_add _)
  have hmirror : t.reg.rsPos = bits64 t.rs.pos := hadv.mirror hmirrors.pos
  exact ⟨(busy_eq_false_iff _).2 hadv.eng, hadv.st, hadv.smpOut, hadv.pos, hratio,
    fun hnum => hadv.pos.trans (rsPosition_eq hnum ..), hreg.trans (by rw [hcount, hmirror]), hadv.samples⟩

/-! ### The identity law -/

section
variable {s t : State} {n : Nat} {num : NumTable}

/-- At ratio 1 from the position j on, in exact arithmetic, the outputs are the samples from j on
(40_resampler.md R177). -/
theorem rsOutputs_identity (hnum : num.Exact) (xs : List Scalar) (n j : Nat) :
    rsOutputs num xs 1 n (j : Scalar) = (xs.drop j).take n := by
  induction n generalizing j with
  | zero => simp [rsOutputs]
  | succ n ih =>
    have hneed : interpNeed num (j : Scalar) = j := by
      rw [interpNeed_eq_ceil hnum]
      exact Rat.ceil_intCast j
    have hnext : num.add (j : Scalar) 1 = ((j + 1 : Nat) : Scalar) := by rw [hnum.add]; push_cast; rfl
    have hvalue (r : Resampler) : r.interp num (j : Scalar) = r.at j := interp_intCast hnum r j
    rw [rsOutputs, hneed, hvalue, hnext, ih]
    split
    case isTrue hj =>
      have hj : j < xs.length := mod_cast hj
      rw [List.drop_eq_getElem_cons hj, List.take_succ_cons]
      simp [Resampler.at, hj]
    case isFalse hj =>
      have hj : xs.length ≤ j := by omega
      rw [List.drop_eq_nil_of_le hj, List.take_nil]

theorem sampleStream_real (num : NumTable) (sigma : Scalar) (lo : Option Byte) (us : List SampleUnit) :
    sampleStream num false sigma lo us = us.map SampleUnit.asReal := by
  induction us with
  | nil => rfl
  | cons u us ih => simp [sampleStream, ih]

/-- The outputs of the identity law: every sample of SMP_IN. -/
theorem rsAhead_identity (hnum : s.num.Exact) (hpcm : s.pcmEn = false)
    (hrs : s.rs = { buf := [], pos := 0, ratio := 1 }) (hn : s.port.smpIn.length ≤ n) : s.rsAhead n = s.port.smpIn.map SampleUnit.asReal := by
  have hall : s.allSamples = s.port.smpIn.map SampleUnit.asReal := by
    rw [State.allSamples, hrs, hpcm, sampleStream_real, List.nil_append]
  have hout := rsOutputs_identity hnum s.allSamples n 0
  rw [State.rsAhead, hrs]
  refine hout.trans ?_
  rw [hall, List.drop_zero, List.take_of_length_le (by simpa)]

theorem sampleUnits_real (hpcm : s.pcmEn = false) (xs : List Scalar) :
    xs.flatMap s.sampleUnits = xs.map fun x => .real (bits64 x) := by
  have hunits : s.sampleUnits = fun x => [.real (bits64 x)] := by funext x; simp [State.sampleUnits, hpcm]
  rw [hunits, List.map_eq_flatMap]

/-- The identity law takes every sample: n outputs are in the buffer, and no more samples are there than it put out. -/
theorem taken_identity (hnum : s.num.Exact) (hpcm : s.pcmEn = false) (hrs : s.rs = { buf := [], pos := 0, ratio := 1 })
    (hn : s.port.smpIn.length ≤ n) (h : Advanced s n t) (hcfg : t.cfg = s.cfg) :
    t.rs.buf = s.port.smpIn.map SampleUnit.asReal ∧ t.port.smpIn = [] := by
  have htpcm : t.pcmEn = false := by rw [State.pcmEn, hcfg]; exact hpcm
  have htake : t.rs.buf.take n = s.port.smpIn.map SampleUnit.asReal := by
    rw [← rsAhead_identity hnum hpcm hrs hn, ← h.outputs, hrs]
    exact (rsOutputs_identity hnum t.rs.buf n 0).symm
  have hsplit : t.rs.buf ++ t.port.smpIn.map SampleUnit.asReal = s.port.smpIn.map SampleUnit.asReal := by
    have hsamples := h.samples
    rwa [State.allSamples, State.allSamples, htpcm, hpcm, sampleStream_real, sampleStream_real, hrs, List.nil_append]
      at hsamples
  have hbuf : t.rs.buf = s.port.smpIn.map SampleUnit.asReal :=
    List.IsPrefix.eq_of_length_le ⟨_, hsplit⟩ (htake ▸ List.length_take_le' ..)
  exact ⟨hbuf, by simpa [hbuf] using hsplit⟩

end

/-- Settles O27: the outputs are the samples, and a buffer that gives them all holds them all. -/
theorem rsAdvIdentity : Obligations.RsAdvIdentity := by
  unfold Obligations.RsAdvIdentity
  intro s n hnum hidle hmirrors hpcm hrs heos hn hroom xs
  have hpcm : s.pcmEn = false := hpcm
  have hcheck : s.checks (.rsAdv n) = true := by simp [State.checks, State.pcmCheck, hpcm]
  have hahead : s.rsAhead n = xs := rsAhead_identity hnum hpcm hrs hn
  have hunits := sampleUnits_real hpcm xs
  obtain ⟨t, hadv, k, hexec⟩ := exec_rsAdv hidle hcheck (.inl heos) (by rw [hahead, hunits]; simpa [xs])
  refine ⟨k, fun b hb => (hexec b hb).trans (congrArg _ ?_)⟩
  have hframe := (advFrame_exec (s := { s with burst := b }) hidle (hexec b hb)).frame
  have hcfg : t.cfg = s.cfg := (congrArg State.cfg hframe :)
  obtain ⟨hbuf, hin⟩ := taken_identity (s := s.accept (.rsAdv n)) hnum hpcm hrs hn hadv hcfg
  have hpos : t.rs.pos = xs.length := by
    have hmoved := hadv.pos.trans (rsPosition_eq hnum ..)
    rw [show (s.accept (.rsAdv n)).rsAhead n = xs from hahead, accept_rs, hrs] at hmoved
    simpa using hmoved
  have hcount : t.reg.count = BitVec.ofNat 64 xs.length := by
    rw [← hahead]
    exact hadv.count.trans (BitVec.zero_add _)
  have hout : t.port.smpOut = s.port.smpOut ++ xs.map fun x => .real (bits64 x) := by
    rw [← hunits, ← hahead]
    exact hadv.smpOut
  have hmirror : t.reg.rsPos = bits64 (xs.length : Scalar) := hpos ▸ hadv.mirror hmirrors.pos
  have hlo : t.pcmLo = s.pcmLo := hadv.pcmLo hpcm
  have hst : t.st = s.st.ended .none := hadv.st
  have heng : t.eng = s.eng := hadv.eng.trans ((busy_eq_false_iff s).1 hidle).symm
  refine hframe.trans ?_
  rw [heng, hst, hcount, hmirror, hin, hout, hlo, hbuf, hpos, hrs]
  rfl

end Sys2Proof.Machine
end

section
/-! PROOFS. What MOD and SEND reach, however far a turn takes them (41_modulator.md R200; 43_frame_tx.md R250, R258). -/

namespace Sys2Proof.Machine

section
variable {s t u v : State} {c : Instr} {n : Nat} {ph : Phase}

/-- What MOD and SEND both reach: acceptance, the samples they put out and their count, the end. -/
structure EmitFrame (s t : State) : Prop where
  frame : t = { s with
    eng := t.eng
    st := { s.st with done := t.st.done, result := t.st.result, cause := t.st.cause }
    reg := { s.reg with count := t.reg.count }
    port := { s.port with smpOut := t.port.smpOut } }
  smpOut : s.port.smpOut <+: t.port.smpOut

/-- What MOD reaches. -/
structure ModFrame (s t : State) : Prop where
  frame : t = { s with
    eng := t.eng
    st := { s.st with done := t.st.done, result := t.st.result, cause := t.st.cause }
    reg := { s.reg with count := t.reg.count }
    port := { s.port with symIn := t.port.symIn, smpOut := t.port.smpOut } }
  smpOut : s.port.smpOut <+: t.port.smpOut
  symIn : t.port.symIn <:+ s.port.symIn

/-- What SEND reaches. -/
structure SendFrame (s t : State) : Prop where
  frame : t = { s with
    eng := t.eng
    st := { s.st with done := t.st.done, result := t.st.result, cause := t.st.cause }
    reg := { s.reg with count := t.reg.count }
    port := { s.port with byteIn := t.port.byteIn, byteInEos := t.port.byteInEos, smpOut := t.port.smpOut }
    tx := t.tx }
  smpOut : s.port.smpOut <+: t.port.smpOut
  byteIn : t.port.byteIn <:+ s.port.byteIn

theorem ModFrame.of_emit (h : EmitFrame s t) : ModFrame s t where
  frame := by rw [h.frame]
  smpOut := h.smpOut
  symIn := by rw [h.frame]

theorem ModFrame.trans (h : ModFrame s t) (k : ModFrame t u) : ModFrame s u where
  frame := k.frame.trans (by rw [h.frame])
  smpOut := h.smpOut.trans k.smpOut
  symIn := k.symIn.trans h.symIn

theorem SendFrame.of_emit (h : EmitFrame s t) : SendFrame s t where
  frame := by rw [h.frame]
  smpOut := h.smpOut
  byteIn := by rw [h.frame]

theorem SendFrame.trans (h : SendFrame s t) (k : SendFrame t u) : SendFrame s u where
  frame := k.frame.trans (by rw [h.frame])
  smpOut := h.smpOut.trans k.smpOut
  byteIn := k.byteIn.trans h.byteIn

theorem SendFrame.refl (s : State) : SendFrame s s := ⟨rfl, List.prefix_rfl, List.suffix_rfl⟩

theorem emitFrame_accept (s : State) (c : Instr) : EmitFrame s (s.accept c) := ⟨rfl, List.prefix_rfl⟩

theorem emitFrame_endWith (s : State) (e : Cause) : EmitFrame s (s.endWith e) := ⟨rfl, List.prefix_rfl⟩

theorem emitFrame_load (s : State) (todo : List Act) (ph : Phase) : EmitFrame s (s.load todo ph) where
  frame := by rw [load_frame]
  smpOut := by simp

/-! ### The steps of the rules -/

/-- After a step whose effect `R` relates, the engine goes on in a place of the command's rule. -/
def State.GoesOn (R : State → State → Prop) (c : Instr) (s t : State) : Prop :=
  ∃ v todo q, t = v.load todo q ∧ R s v ∧ v.eng = s.eng ∧ otherPlace c todo q

/-- A step of MOD's rule ends the command, or takes a symbol and goes on in the rule (41_modulator.md R200). -/
theorem stepMod_cases (hph : ph.belongs (.mod n) = true) (h : s.stepPhase ph = some t) :
    t = s.endWith .none ∨ s.GoesOn ModFrame (.mod n) t := by
  cases ph with
  | mod left syms =>
    cases left with
    | zero => cases h; exact .inl rfl
    | succ left =>
      simp only [State.stepPhase, State.stepMod] at h
      split at h
      · cases h
      · cases h; exact .inl rfl
      · next x v hpop =>
        obtain ⟨hin, hv⟩ := popSym_got hpop
        have hframe : ModFrame s v := ⟨by rw [hv], by rw [hv], hin ▸ List.suffix_cons ..⟩
        have heng : v.eng = s.eng := by rw [hv]
        split at h <;> cases h
        · exact .inr ⟨v, _, _, rfl, hframe, heng, .inl ⟨rfl, modBlockActs_belong (fun _ => rfl) _ _⟩⟩
        · exact .inr ⟨v, _, _, rfl, hframe, heng, .inl ⟨rfl, rfl⟩⟩
  | _ => cases hph

/-- A step of SEND's rule takes a payload byte or moves the transmit codec, or neither, and goes on in the rule
(43_frame_tx.md R258). -/
theorem stepSend_goesOn (hph : ph.belongs .send = true) (h : s.stepPhase ph = some t) :
    s.GoesOn SendFrame .send t := by
  have hgo {todo : List Act} {q : Phase} (tx : TxCodec) (hq : q.belongs .send = true)
      (htodo : todo.all (Act.belongs .send) = true) :
      s.GoesOn SendFrame .send (State.load { s with tx := tx } todo q) :=
    ⟨_, _, _, rfl, ⟨rfl, List.prefix_rfl, List.suffix_rfl⟩, rfl, .inl ⟨hq, htodo⟩⟩
  have hemit (xs : List Scalar) : (s.emitSamples xs).all (Act.belongs .send) = true :=
    emitSamples_belong (fun _ => rfl) s xs
  cases ph with
  | lead left =>
    cases left <;> cases h
    · exact hgo s.tx rfl rfl
    · exact hgo s.tx rfl (hemit _)
  | preamble i =>
    simp only [State.stepPhase, State.stepPreamble] at h
    split at h <;> cases h
    · exact hgo s.tx rfl (hemit _)
    · exact hgo .init rfl rfl
  | data =>
    simp only [State.stepPhase, State.stepData] at h
    split at h
    · cases h
    · cases h; exact hgo s.tx rfl rfl
    · next b v hpop =>
      obtain ⟨hin, hv⟩ := popByte_got hpop
      have hframe (tx : TxCodec) : SendFrame s { v with tx := tx } :=
        ⟨by rw [hv], by rw [hv], hin ▸ List.suffix_cons ..⟩
      have heng : v.eng = s.eng := by rw [hv]
      split at h <;> cases h <;> exact ⟨_, _, _, rfl, hframe _, heng, .inl ⟨rfl, rfl⟩⟩
  | emit queue last =>
    cases queue <;> cases h
    · exact hgo _ (by cases last <;> rfl) rfl
    · exact hgo _ rfl (flatMap_emitBlock_belong (fun _ => rfl) _ _)
  | pad =>
    simp only [State.stepPhase, State.stepPad] at h
    split at h <;> cases h
    · exact hgo s.tx rfl rfl
    · exact hgo _ rfl (hemit _)
  | trail left =>
    cases left <;> cases h
    · exact ⟨s, _, _, rfl, .refl s, rfl, .inr ⟨rfl, rfl, .inl rfl⟩⟩
    · exact hgo s.tx rfl (hemit _)
  | _ => cases hph

/-! ### A turn -/

/-- The engine has ended the command, or stands in a place of its rule. -/
def State.HasPlace (s : State) (c : Instr) : Prop :=
  s.eng = .idle ∨ ∃ todo ph, s.eng = .run c todo ph ∧ otherPlace c todo ph

theorem hasPlace_load {todo todo' : List Act} {q : Phase} (he : v.eng = .run c todo ph)
    (hplace : otherPlace c todo' q) :
    (v.load todo' q).HasPlace c :=
  .inr ⟨todo', q, load_eng he _ _, hplace⟩

theorem emitFrame_perform {a : Act} (hc : c = .mod n ∨ c = .send) (ha : a.belongs c = true)
    (h : s.perform a = some t) : EmitFrame s t ∧ t.eng = s.eng := by
  cases perform_cases h with
  | pushSmp v => exact ⟨⟨rfl, List.prefix_append ..⟩, rfl⟩
  | countUp => exact ⟨⟨rfl, List.prefix_rfl⟩, rfl⟩
  | pushSym | track => obtain rfl | rfl := hc <;> cases ha
  | _ => cases ha

section
variable {R : State → State → Prop} (hc : c = .mod n ∨ c = .send)
  (hemit : ∀ s t, EmitFrame s t → R s t)
  (hclear : c = .send → ∀ s, R s s.clearByteIn)
  (hphase : ∀ (s : State) (ph : Phase) (t : State), ph.belongs c = true → s.stepPhase ph = some t →
    t = s.endWith .none ∨ s.GoesOn R c t)
  (htrans : ∀ s t u, R s t → R t u → R s u)
include hc hemit hclear hphase htrans

theorem emitting_engineStep (hin : s.HasPlace c) (h : s.engineStep = some t) : R s t ∧ t.HasPlace c := by
  have hload (v : State) (todo : List Act) (q : Phase) : R v (v.load todo q) := hemit _ _ (emitFrame_load ..)
  have hend (v : State) : R v (v.endWith .none) := hemit _ _ (emitFrame_endWith ..)
  obtain hidle | ⟨todo, ph, he, hplace⟩ := hin
  · rw [engineStep_idle hidle] at h; cases h
  · cases todo with
    | nil =>
      rw [engineStep_phase he] at h
      have hph : ph.belongs c = true := by
        obtain ⟨hph, -⟩ | ⟨-, -, hno | hno⟩ := hplace
        · exact hph
        · cases hno
        · cases hno
      obtain rfl | ⟨v, todo, q, rfl, hv, heng, hq⟩ := hphase _ _ _ hph h
      · exact ⟨hend _, .inl rfl⟩
      · exact ⟨htrans _ _ _ hv (hload _ _ _), hasPlace_load (heng.trans he) hq⟩
    | cons a rest =>
      rw [engineStep_act he] at h
      have heng : (s.load rest ph).eng = .run c rest ph := load_eng he _ _
      obtain ⟨hph, hall⟩ | ⟨hsend, rfl, ha | ha⟩ := hplace
      · obtain ⟨ha, hrest⟩ := Bool.and_eq_true_iff.1 hall
        obtain ⟨hframe, ht⟩ := emitFrame_perform hc ha h
        exact ⟨htrans _ _ _ (hload _ _ _) (hemit _ _ hframe),
          .inr ⟨rest, ph, ht.trans heng, .inl ⟨hph, hrest⟩⟩⟩
      · cases ha; cases h
        exact ⟨htrans _ _ _ (hload _ _ _) (hclear hsend _), .inr ⟨_, _, heng, .inr ⟨hsend, rfl, .inr rfl⟩⟩⟩
      · cases ha; cases h
        exact ⟨htrans _ _ _ (hload _ _ _) (hend _), .inl rfl⟩

/-- What acceptance, the samples put out, the rule's steps and SEND's clean-up reach, a turn of the command does. -/
theorem emitting_exec (hidle : s.busy = false) (h : exec c s = .next t) : R s t := by
  have haccept : R s (s.accept c) := hemit _ _ (emitFrame_accept s c)
  have hend (e : Cause) : R s ((s.accept c).endWith e) ∧ ((s.accept c).endWith e).HasPlace c :=
    ⟨htrans _ _ _ haccept (hemit _ _ (emitFrame_endWith ..)), .inl rfl⟩
  have hload {q : Phase} (hq : q.belongs c = true) :
      R s ((s.accept c).load [] q) ∧ ((s.accept c).load [] q).HasPlace c :=
    ⟨htrans _ _ _ haccept (hemit _ _ (emitFrame_load ..)), hasPlace_load rfl (.inl ⟨hq, rfl⟩)⟩
  have hissued : R s (issued c s) ∧ (issued c s).HasPlace c := by
    generalize hi : issued c s = v
    cases issued_cases hi with
    | abort hb | reject hb => rw [hidle] at hb; cases hb
    | bad => exact hend _
    | begin =>
      obtain rfl | rfl := hc
      · exact startCounted_keeps (P := fun v => R s v ∧ v.HasPlace _) n _ (hend _) (hload rfl)
      · exact hload rfl
  rw [exec_eq] at h
  cases h
  refine (runEngine_keeps (P := fun v => R s v ∧ v.HasPlace c) (fun v w hv he => ?_) _ hissued).1
  obtain ⟨hreach, hin⟩ := hv
  exact (emitting_engineStep hc hemit hclear hphase htrans hin he).imp_left (htrans _ _ _ hreach)

end

theorem modFrame_exec (hidle : s.busy = false) (h : exec (.mod n) s = .next t) : ModFrame s t :=
  emitting_exec (.inl rfl) (fun _ _ => .of_emit) nofun (fun _ _ _ => stepMod_cases) (fun _ _ _ => .trans) hidle h

theorem sendFrame_exec (hidle : s.busy = false) (h : exec .send s = .next t) : SendFrame s t :=
  emitting_exec (n := 0) (.inr rfl) (fun _ _ => .of_emit) (fun _ _ => ⟨rfl, List.prefix_rfl, List.nil_suffix⟩)
    (fun _ _ _ hph hstep => .inr (stepSend_goesOn hph hstep)) (fun _ _ _ => .trans) hidle h

end

/-- Settles O58: every engine step of the two commands takes a unit of the command's own port, moves SEND's codec,
performs one of the command's own actions or ends it. -/
theorem frameOfModAndSend : Obligations.FrameOfModAndSend := by
  unfold Obligations.FrameOfModAndSend
  refine fun s t hidle => ⟨fun n h => ?_, fun h => ?_⟩
  · obtain ⟨hframe, hout, hin⟩ := modFrame_exec hidle h
    exact ⟨hframe, hout, hin⟩
  · obtain ⟨hframe, hout, hin⟩ := sendFrame_exec hidle h
    exact ⟨hframe, hout, hin⟩

end Sys2Proof.Machine
end

section
/-! PROOFS. MOD n synthesizes, pushes and counts every whole block that n and the symbols allow
(41_modulator.md R200, R201, R203). -/

namespace Sys2Proof.Machine

section
variable {s : State} {c : Instr} {n left : Nat} {syms : List Cx} {v : SymbolUnit} {us rest : List SymbolUnit}

/-! ### The steps -/

theorem stepMod_open (hin : s.port.symIn = v :: rest) (hopen : (syms ++ [v.value]).length < s.nCar) :
    s.stepMod (left + 1) syms =
      some (State.load { s with port := { s.port with symIn := rest } } [] (.mod (left + 1) (syms ++ [v.value]))) := by
  rw [State.stepMod, popSym_cons hin]
  exact if_neg hopen.not_ge

theorem stepMod_full (hin : s.port.symIn = v :: rest) (hfull : s.nCar ≤ (syms ++ [v.value]).length) :
    s.stepMod (left + 1) syms =
      some (State.load { s with port := { s.port with symIn := rest } } (s.modBlockActs (syms ++ [v.value]))
        (.mod left [])) := by
  rw [State.stepMod, popSym_cons hin]
  exact if_pos hfull

theorem stepMod_eos (hin : s.port.symIn = []) (heos : s.port.symInEos = true) :
    s.stepMod (left + 1) syms = some (s.endWith .none) := by
  rw [State.stepMod, popSym_nil hin, if_pos heos]

/-! ### One block -/

/-- MOD with `left` blocks still to produce, `syms` taken of the next, `todo` fixed and `us` in SYM_IN. -/
def State.modAt (s : State) (c : Instr) (todo : List Act) (left : Nat) (syms : List Cx) (us : List SymbolUnit) :
    State :=
  { s with eng := .run c todo (.mod left syms), port := { s.port with symIn := us } }

/-- The units that complete no block are taken one by one. -/
theorem reaches_symbolsTaken (hopen : syms.length + us.length < s.nCar) :
    (s.modAt c [] (left + 1) syms (us ++ rest)).Reaches
      (s.modAt c [] (left + 1) (syms ++ us.map SymbolUnit.value) rest) := by
  induction us generalizing syms with
  | nil => rw [List.map_nil, List.append_nil]; exact .refl _
  | cons v us ih =>
    rw [List.length_cons] at hopen
    have hlen : (syms ++ [v.value]).length = syms.length + 1 := by simp
    have htake : (s.modAt c [] (left + 1) syms (v :: us ++ rest)).Reaches
        (s.modAt c [] (left + 1) (syms ++ [v.value]) (us ++ rest)) := reaches_of_step fun b =>
      stepMod_open (s := { s.modAt c [] (left + 1) syms (v :: us ++ rest) with burst := b }) rfl
        (show _ < s.nCar by omega)
    rw [List.map_cons, List.append_cons]
    exact htake.trans (ih (by omega))

/-- A block's last unit fixes the pushes of its samples. -/
theorem reaches_blockTaken (hpos : 0 < s.nCar) (hlen : us.length = s.nCar) :
    (s.modAt c [] (left + 1) [] (us ++ rest)).Reaches
      (s.modAt c (s.modBlockActs (us.map SymbolUnit.value)) left [] rest) := by
  obtain rfl | ⟨us, v, rfl⟩ := List.eq_nil_or_concat' us
  · exact absurd hlen hpos.ne
  · rw [List.length_append, List.length_singleton] at hlen
    have htake : (s.modAt c [] (left + 1) [] (us ++ v :: rest)).Reaches
        (s.modAt c [] (left + 1) (us.map SymbolUnit.value) (v :: rest)) :=
      reaches_symbolsTaken (syms := []) (by simp only [List.length_nil]; omega)
    have hlast : (s.modAt c [] (left + 1) (us.map SymbolUnit.value) (v :: rest)).Reaches
        (s.modAt c (s.modBlockActs (us.map SymbolUnit.value ++ [v.value])) left [] rest) := reaches_of_step fun b =>
      stepMod_full (s := { s.modAt c [] (left + 1) (us.map SymbolUnit.value) (v :: rest) with burst := b }) rfl
        (show s.nCar ≤ _ by simp [hlen])
    rw [List.append_assoc, List.map_append]
    exact htake.trans hlast

/-- The sample units of one block of symbols (41_modulator.md R201). -/
def State.blockUnits (s : State) (us : List SymbolUnit) : List SampleUnit :=
  (s.synth (us.map SymbolUnit.value)).flatMap s.sampleUnits

/-- The state after the first block of SYM_IN is taken, its samples are pushed and the block is counted. -/
def State.withBlock (s : State) : State :=
  { s.countUp with port := { s.port with
      symIn := s.port.symIn.drop s.nCar
      smpOut := s.port.smpOut ++ s.blockUnits (s.port.symIn.take s.nCar) } }

theorem modBlockActs_eq (s : State) (us : List SymbolUnit) :
    s.modBlockActs (us.map SymbolUnit.value) = (s.blockUnits us).map .pushSmp ++ [.countUp] := by
  rw [State.blockUnits, List.map_flatMap]
  rfl

theorem reaches_withBlock (hpos : 0 < s.nCar) (hsyms : s.nCar ≤ s.port.symIn.length)
    (hroom : s.port.smpOut.length + (s.blockUnits (s.port.symIn.take s.nCar)).length ≤ s.par.depth.smpOut) :
    (s.modAt c [] (left + 1) [] s.port.symIn).Reaches (s.withBlock.modAt c [] left [] s.withBlock.port.symIn) := by
  have htake := reaches_blockTaken (s := s) (c := c) (left := left) (us := s.port.symIn.take s.nCar)
    (rest := s.port.symIn.drop s.nCar) hpos (List.length_take_of_le hsyms)
  rw [List.take_append_drop, modBlockActs_eq] at htake
  exact (htake.trans (reaches_pushSmp rfl hroom)).trans (reaches_of_step fun b => rfl)

/-! ### The whole blocks -/

/-- The blocks MOD n produces: as many as n and the symbols allow (41_modulator.md R200). -/
def State.wholeBlocks (s : State) (n : Nat) : Nat := min n (s.port.symIn.length / s.nCar)

/-- The sample units of the first `m` blocks of SYM_IN (41_modulator.md R203). -/
def State.modUnits (s : State) (m : Nat) : List SampleUnit := (s.modulate (s.symbolBlocks m)).flatMap s.sampleUnits

/-- The state in which MOD n ends, if SYM_IN holds or ends with what it needs. -/
def State.modulated (s : State) (n : Nat) : State :=
  { s with
    eng := .idle
    st := s.st.ended .none
    reg := { s.reg with count := s.reg.count + BitVec.ofNat 64 (s.wholeBlocks n) }
    port := { s.port with
      symIn := s.port.symIn.drop (n * s.nCar)
      smpOut := s.port.smpOut ++ s.modUnits (s.wholeBlocks n) } }

theorem wholeBlocks_succ (hpos : 0 < s.nCar) (hsyms : s.nCar ≤ s.port.symIn.length) :
    s.wholeBlocks (n + 1) = s.withBlock.wholeBlocks n + 1 := by
  rw [State.wholeBlocks, Nat.div_eq_sub_div hpos hsyms, Nat.succ_min_succ, ← List.length_drop]
  rfl

theorem wholeBlocks_short (hshort : s.port.symIn.length < s.nCar) : s.wholeBlocks n = 0 := by
  rw [State.wholeBlocks, Nat.div_eq_of_lt hshort, Nat.min_zero]

theorem symbolBlocks_succ (s : State) (m : Nat) :
    s.symbolBlocks (m + 1) =
      (s.port.symIn.take s.nCar).map SymbolUnit.value :: s.withBlock.symbolBlocks m := by
  rw [State.symbolBlocks, List.range_succ_eq_map, List.map_cons, List.map_map, Nat.zero_mul, List.drop_zero]
  refine congrArg _ (List.map_congr_left fun j _ => ?_)
  rw [Function.comp_apply, Nat.succ_mul, Nat.add_comm, ← List.drop_drop]
  rfl

theorem modUnits_succ (s : State) (m : Nat) :
    s.modUnits (m + 1) = s.blockUnits (s.port.symIn.take s.nCar) ++ s.withBlock.modUnits m := by
  rw [State.modUnits, symbolBlocks_succ, State.modulate, List.flatMap_cons, List.flatMap_append]
  rfl

theorem modulated_withBlock (hpos : 0 < s.nCar) (hsyms : s.nCar ≤ s.port.symIn.length) :
    s.withBlock.modulated n = s.modulated (n + 1) := by
  have hcount : s.reg.count + BitVec.ofNat 64 (s.wholeBlocks (n + 1)) =
      s.reg.count + 1 + BitVec.ofNat 64 (s.withBlock.wholeBlocks n) := by
    rw [wholeBlocks_succ hpos hsyms, Nat.add_comm, BitVec.ofNat_add]
    exact (BitVec.add_assoc ..).symm
  have hin : s.port.symIn.drop ((n + 1) * s.nCar) = (s.port.symIn.drop s.nCar).drop (n * s.nCar) := by
    rw [List.drop_drop, Nat.succ_mul, Nat.add_comm]
  have hout : s.port.smpOut ++ s.modUnits (s.wholeBlocks (n + 1)) =
      s.port.smpOut ++ s.blockUnits (s.port.symIn.take s.nCar) ++ s.withBlock.modUnits (s.withBlock.wholeBlocks n) := by
    rw [wholeBlocks_succ hpos hsyms, modUnits_succ, List.append_assoc]
  rw [State.modulated, State.modulated, hcount, hin, hout]
  rfl

@[simp] theorem modUnits_zero (s : State) : s.modUnits 0 = [] := rfl

theorem modulated_zero (s : State) : s.modulated 0 = s.endWith .none := by
  simp [State.modulated, State.wholeBlocks, State.endWith, Status.ended]

theorem modulated_short (hn : n ≠ 0) (hshort : s.port.symIn.length < s.nCar) :
    s.modulated n = State.endWith { s with port := { s.port with symIn := [] } } .none := by
  have hdrop : s.port.symIn.drop (n * s.nCar) = [] :=
    List.drop_eq_nil_of_le (hshort.le.trans (Nat.le_mul_of_pos_left _ (Nat.pos_of_ne_zero hn)))
  simp [State.modulated, wholeBlocks_short hshort, hdrop, State.endWith, Status.ended]

/-- MOD comes to its end on marked input, or on enough of it, with room for its samples. -/
theorem reaches_modulated (hpos : 0 < s.nCar)
    (hinput : s.port.symInEos = true ∨ n * s.nCar ≤ s.port.symIn.length)
    (hroom : s.port.smpOut.length + (s.modUnits (s.wholeBlocks n)).length ≤ s.par.depth.smpOut) :
    (s.modAt c [] n [] s.port.symIn).Reaches (s.modulated n) := by
  induction n generalizing s with
  | zero => rw [modulated_zero]; exact reaches_of_step fun b => rfl
  | succ n ih =>
    obtain hsyms | hshort := le_or_gt s.nCar s.port.symIn.length
    · rw [wholeBlocks_succ hpos hsyms, modUnits_succ, List.length_append] at hroom
      rw [← modulated_withBlock hpos hsyms]
      refine (reaches_withBlock hpos hsyms (by omega)).trans (ih hpos (hinput.imp_right fun henough => ?_) ?_)
      · show n * s.nCar ≤ (s.port.symIn.drop s.nCar).length
        rw [List.length_drop]
        rw [Nat.succ_mul] at henough
        omega
      · show (s.port.smpOut ++ s.blockUnits (s.port.symIn.take s.nCar)).length + _ ≤ s.par.depth.smpOut
        rw [List.length_append]
        omega
    · have heos : s.port.symInEos = true := by
        refine hinput.resolve_right fun henough => ?_
        rw [Nat.succ_mul] at henough
        omega
      have htake : (s.modAt c [] (n + 1) [] s.port.symIn).Reaches
          (s.modAt c [] (n + 1) (s.port.symIn.map SymbolUnit.value) []) := by
        have h := reaches_symbolsTaken (s := s) (c := c) (left := n) (syms := []) (us := s.port.symIn) (rest := [])
          (by rwa [List.length_nil, Nat.zero_add])
        rwa [List.append_nil] at h
      rw [modulated_short n.succ_ne_zero hshort]
      exact htake.trans (reaches_of_step fun b => stepMod_eos
        (s := { s.modAt c [] (n + 1) (s.port.symIn.map SymbolUnit.value) [] with burst := b }) rfl heos)

theorem nCar_pos_of_carrierCheck (h : s.carrierCheck = true) : 0 < s.nCar := by
  simp only [State.carrierCheck, Bool.and_eq_true, decide_eq_true_eq] at h
  omega

/-- An idle machine's MOD n comes to its end within one turn, from some burst on. -/
theorem exec_mod (hidle : s.busy = false) (hcheck : s.checks (.mod n) = true)
    (hinput : s.port.symInEos = true ∨ n * s.nCar ≤ s.port.symIn.length)
    (hroom : s.port.smpOut.length + (s.modUnits (s.wholeBlocks n)).length ≤ s.par.depth.smpOut) :
    ∃ k, ∀ b, k ≤ b →
      exec (.mod n) { s with burst := b } = .next { (s.accept (.mod n)).modulated n with burst := b } := by
  have hissued (b : Nat) : issued (.mod n) { s with burst := b } =
      { (s.accept (.mod n)).startCounted n (.mod n []) with burst := b } := by
    rw [issued_begun (s := { s with burst := b }) (i := .mod n) hidle hcheck]
    exact startCounted_burst (s := s.accept (.mod n)) rfl b n (.mod n [])
  refine exec_of_reaches hissued ?_ rfl
  unfold State.startCounted
  split
  case isTrue hn => subst hn; rw [modulated_zero]; exact .refl _
  case isFalse =>
    have hpos : 0 < s.nCar := nCar_pos_of_carrierCheck (Bool.and_eq_true_iff.1 hcheck).1
    exact reaches_modulated (s := s.accept (.mod n)) hpos hinput hroom

end

/-- Settles O29: by induction on n, MOD takes and produces the next whole block, or takes what is left and finds the
input ended. -/
theorem modComputes : Obligations.ModComputes := by
  unfold Obligations.ModComputes
  intro s n hidle hcheck hinput m units hroom
  obtain ⟨k, hexec⟩ := exec_mod hidle hcheck hinput hroom
  refine ⟨k, fun b hb => (hexec b hb).trans (congrArg _ ?_)⟩
  have heng : s.eng = .idle := (busy_eq_false_iff s).1 hidle
  have hcount : (0 : Word) + BitVec.ofNat 64 m = BitVec.ofNat 64 m := BitVec.zero_add _
  rw [← hcount, heng]
  rfl

end Sys2Proof.Machine
end

section
/-! PROOFS. In exact arithmetic and with orthogonal carriers, projection inverts synthesis (42_demodulator.md R221, R222;
41_modulator.md R201, R207). -/

namespace Sys2Proof.Machine

/-! ### Sums over a range -/

theorem sum_map_range (n : Nat) (f : Nat → Scalar) : ((List.range n).map f).sum = ∑ i ∈ Finset.range n, f i := rfl

/-- The elements of a list with their numbers, as a map over a range. -/
theorem map_zipIdx_eq_map_range {α β : Type} (l : List α) (d : α) (f : α × Nat → β) :
    l.zipIdx.map f = (List.range l.length).map fun i => f ((l[i]?).getD d, i) := by
  refine List.ext_getElem (by simp) fun i hi _ => ?_
  have hi : i < l.length := by simpa using hi
  simp [hi]

theorem map_zipIdx_map_range {α β : Type} (n : Nat) (g : Nat → α) (f : α × Nat → β) :
    ((List.range n).map g).zipIdx.map f = (List.range n).map fun i => f (g i, i) := by
  exact List.ext_getElem (by simp) fun i _ _ => by simp

section
variable {s : State} {z : List Cx}

/-- The sum over one block of the products of a part of carrier `l`'s waveform with a part of carrier `k`'s. -/
def State.overBlock (s : State) (p q : Cx → Scalar) (l k : Nat) : Scalar :=
  ∑ n ∈ Finset.range s.nSym, p (s.carrier l n) * q (s.carrier k n)

theorem nSym_ne_zero_of_orthogonal (h : s.orthogonal = true) : (s.nSym : Scalar) ≠ 0 := by
  simp only [State.orthogonal, Bool.and_eq_true, decide_eq_true_eq] at h
  exact mod_cast h.1

/-- What orthogonality says of the parts of two carriers: equal parts of one carrier have the energy N / 2, all other
products of parts have the sum 0 (41_modulator.md R207). -/
theorem overBlock_of_orthogonal (hnum : s.num.Exact) (h : s.orthogonal = true) {k l : Nat} (hk : k < s.nCar)
    (hl : l < s.nCar) :
    s.overBlock Cx.re Cx.re l k = (if k = l then (s.nSym : Scalar) / 2 else 0) ∧
    s.overBlock Cx.im Cx.im l k = (if k = l then (s.nSym : Scalar) / 2 else 0) ∧
    s.overBlock Cx.re Cx.im l k = 0 ∧ s.overBlock Cx.im Cx.re l k = 0 := by
  simp only [State.orthogonal, allBelow, Bool.and_eq_true, List.all_eq_true, List.mem_range, decide_eq_true_eq] at h
  obtain ⟨hconj, hprod⟩ := h.2 k hk l hl
  simp only [hnum.cxSum_eq, hnum.cxMul_eq, List.map_map, Function.comp_def, sum_map_range, Cx.conj, mul_neg,
    sub_neg_eq_add, Finset.sum_add_distrib, Finset.sum_sub_distrib, Finset.sum_neg_distrib] at hconj hprod
  have hsum : s.overBlock Cx.re Cx.re l k + s.overBlock Cx.im Cx.im l k = if k = l then (s.nSym : Scalar) else 0 :=
    (congrArg Cx.re hconj).trans (apply_ite Cx.re ..)
  have hcross : -s.overBlock Cx.re Cx.im l k + s.overBlock Cx.im Cx.re l k = 0 :=
    (congrArg Cx.im hconj).trans ((apply_ite Cx.im ..).trans (ite_self 0))
  have hdiff : s.overBlock Cx.re Cx.re l k - s.overBlock Cx.im Cx.im l k = 0 := congrArg Cx.re hprod
  have hcross' : s.overBlock Cx.re Cx.im l k + s.overBlock Cx.im Cx.re l k = 0 := congrArg Cx.im hprod
  refine ⟨?_, ?_, by linarith, by linarith⟩
  · split_ifs at hsum ⊢ <;> linarith
  · split_ifs at hsum ⊢ <;> linarith

theorem synthAt_eq (hnum : s.num.Exact) (hz : z.length = s.nCar) (n : Nat) :
    s.synthAt z n = ∑ l ∈ Finset.range s.nCar,
      (((z[l]?).getD Cx.zero).re * (s.carrier l n).re - ((z[l]?).getD Cx.zero).im * (s.carrier l n).im) := by
  rw [State.synthAt, hnum.sum_eq, map_zipIdx_eq_map_range z Cx.zero, hz, sum_map_range]
  simp only [hnum.cxMul_eq]

theorem proj_synth_eq (hnum : s.num.Exact) (k : Nat) :
    s.proj (s.synth z) k =
      ⟨2 / (s.nSym : Scalar) * ∑ n ∈ Finset.range s.nSym, s.synthAt z n * (s.carrier k n).re,
       2 / (s.nSym : Scalar) * -∑ n ∈ Finset.range s.nSym, s.synthAt z n * (s.carrier k n).im⟩ := by
  rw [State.proj, State.synth, map_zipIdx_map_range]
  simp only [hnum.cxScale_eq, hnum.cxSum_eq, hnum.div, List.map_map, Function.comp_def, sum_map_range, Cx.conj, mul_neg,
    Finset.sum_neg_distrib]

/-- The correlation of a synthesized block with a part of a carrier, carrier by carrier. -/
theorem sum_synthAt_mul (hnum : s.num.Exact) (hz : z.length = s.nCar) (q : Cx → Scalar) (k : Nat) :
    ∑ n ∈ Finset.range s.nSym, s.synthAt z n * q (s.carrier k n) =
      ∑ l ∈ Finset.range s.nCar,
        (((z[l]?).getD Cx.zero).re * s.overBlock Cx.re q l k - ((z[l]?).getD Cx.zero).im * s.overBlock Cx.im q l k) := by
  simp only [synthAt_eq hnum hz, Finset.sum_mul, State.overBlock, Finset.mul_sum, ← Finset.sum_sub_distrib]
  rw [Finset.sum_comm]
  exact Finset.sum_congr rfl fun l _ => Finset.sum_congr rfl fun n _ => by ring

/-- Of a synthesized block, projection on a carrier gives back that carrier's symbol. -/
theorem proj_synth (hnum : s.num.Exact) (horth : s.orthogonal = true) (hz : z.length = s.nCar) {k : Nat}
    (hk : k < s.nCar) : s.proj (s.synth z) k = (z[k]?).getD Cx.zero := by
  have hN := nSym_ne_zero_of_orthogonal horth
  have hre : ∑ n ∈ Finset.range s.nSym, s.synthAt z n * (s.carrier k n).re =
      ((z[k]?).getD Cx.zero).re * (s.nSym / 2) := by
    rw [sum_synthAt_mul hnum hz Cx.re, ← Finset.sum_ite_eq_of_mem (Finset.range s.nCar) k
      (fun l => ((z[l]?).getD Cx.zero).re * (s.nSym / 2)) (Finset.mem_range.2 hk)]
    refine Finset.sum_congr rfl fun l hl => ?_
    obtain ⟨hrr, -, -, hir⟩ := overBlock_of_orthogonal hnum horth hk (Finset.mem_range.1 hl)
    rw [hrr, hir, mul_ite, mul_zero, mul_zero, sub_zero]
  have him : ∑ n ∈ Finset.range s.nSym, s.synthAt z n * (s.carrier k n).im =
      -((z[k]?).getD Cx.zero).im * (s.nSym / 2) := by
    rw [sum_synthAt_mul hnum hz Cx.im, ← Finset.sum_ite_eq_of_mem (Finset.range s.nCar) k
      (fun l => -((z[l]?).getD Cx.zero).im * (s.nSym / 2)) (Finset.mem_range.2 hk)]
    refine Finset.sum_congr rfl fun l hl => ?_
    obtain ⟨-, hii, hri, -⟩ := overBlock_of_orthogonal hnum horth hk (Finset.mem_range.1 hl)
    rw [hri, hii, mul_ite, mul_zero, mul_zero, zero_sub, neg_mul, apply_ite Neg.neg, neg_zero]
  rw [proj_synth_eq hnum, hre, him]
  ext <;> dsimp only <;> field_simp

/-- Settles O31: carrier by carrier, orthogonality leaves of the correlation sums of the synthesized block the carrier's own
term. -/
theorem projInvertsSynth : Obligations.ProjInvertsSynth := by
  unfold Obligations.ProjInvertsSynth
  intro s z hnum horth hz
  refine List.ext_getElem (by simp [State.projAll, hz]) fun k _ hk => ?_
  have hproj := proj_synth hnum horth hz (hz ▸ hk)
  simpa [State.projAll, hk] using hproj

end

end Sys2Proof.Machine
end

section
/-! PROOFS. The slicer and the tracking update, and the update's bounds (42_demodulator.md R229, R230, R232, R234). -/

namespace Sys2Proof.Machine

section
variable {s : State}

/-! ### The slicer -/

/-- The nearest point up to `n` is the first of the points at the smallest distance. -/
theorem nearest_spec (v : Cx) (n : Nat) :
    s.nearest v n ≤ n ∧ (∀ i ≤ n, s.pointDistance v (s.nearest v n) ≤ s.pointDistance v i) ∧
    ∀ i < s.nearest v n, s.pointDistance v (s.nearest v n) < s.pointDistance v i := by
  induction n with
  | zero => exact ⟨le_rfl, fun i hi => by rw [Nat.le_zero.1 hi]; exact le_rfl, nofun⟩
  | succ n ih =>
    obtain ⟨hle, hmin, hfirst⟩ := ih
    rw [State.nearest]
    split
    case isTrue hnearer =>
      have hall (i : Nat) (hi : i ≤ n) : s.pointDistance v (n + 1) < s.pointDistance v i := hnearer.trans_le (hmin i hi)
      refine ⟨le_rfl, fun i hi => ?_, fun i hi => hall i (Nat.le_of_lt_succ hi)⟩
      obtain hi | rfl := Nat.le_succ_iff.1 hi
      · exact (hall i hi).le
      · exact le_rfl
    case isFalse hfarther =>
      refine ⟨hle.trans n.le_succ, fun i hi => ?_, hfirst⟩
      obtain hi | rfl := Nat.le_succ_iff.1 hi
      · exact hmin i hi
      · exact not_lt.1 hfarther

theorem le_two_pow_sub_one_iff {i b : Nat} : i ≤ 2 ^ b - 1 ↔ i < 2 ^ b := Nat.le_sub_one_iff_lt (Nat.two_pow_pos b)

/-- Slice(v) is the first of the 2^B points at the smallest distance (42_demodulator.md R229). -/
theorem slice_spec (s : State) (v : Cx) :
    s.slice v < 2 ^ s.nBit ∧ (∀ i < 2 ^ s.nBit, s.pointDistance v (s.slice v) ≤ s.pointDistance v i) ∧
    ∀ i < s.slice v, s.pointDistance v (s.slice v) < s.pointDistance v i := by
  simpa only [State.slice, le_two_pow_sub_one_iff] using nearest_spec (s := s) v (2 ^ s.nBit - 1)

/-- In exact arithmetic the distance is that of the plane. -/
theorem pointDistance_eq (hnum : s.num.Exact) (v : Cx) (i : Nat) :
    s.pointDistance v i = (v.re - (s.point i).re) * (v.re - (s.point i).re) +
      (v.im - (s.point i).im) * (v.im - (s.point i).im) := by
  simp only [State.pointDistance, hnum.normSq_eq, hnum.sub]

theorem pointDistance_nonpos_iff (hnum : s.num.Exact) (v : Cx) (i : Nat) :
    s.pointDistance v i ≤ 0 ↔ v = s.point i := by
  rw [pointDistance_eq hnum, (add_nonneg (mul_self_nonneg _) (mul_self_nonneg _)).ge_iff_eq',
    mul_self_add_mul_self_eq_zero, sub_eq_zero, sub_eq_zero, Cx.ext_iff]

theorem point_injOn (h : s.constellationCheck = true) {i j : Nat} (hi : i < 2 ^ s.nBit) (hj : j < 2 ^ s.nBit)
    (heq : s.point i = s.point j) : i = j := by
  simp only [State.constellationCheck, distinctBelow, allBelow, Bool.and_eq_true, List.all_eq_true, List.mem_range,
    decide_eq_true_eq] at h
  obtain ⟨-, hdistinct⟩ := h
  obtain hlt | rfl | hlt := Nat.lt_trichotomy i j
  · exact absurd heq.symm (hdistinct j hj i hlt)
  · rfl
  · exact absurd heq (hdistinct i hi j hlt)

/-- A point slices to its own index (42_demodulator.md R230). -/
theorem slice_point (hnum : s.num.Exact) (h : s.constellationCheck = true) {i : Nat} (hi : i < 2 ^ s.nBit) :
    s.slice (s.point i) = i := by
  obtain ⟨hlt, hmin, -⟩ := slice_spec s (s.point i)
  have hself : s.pointDistance (s.point i) i ≤ 0 := (pointDistance_nonpos_iff hnum _ _).2 rfl
  have hpoint := (pointDistance_nonpos_iff hnum _ _).1 ((hmin i hi).trans hself)
  exact point_injOn h hlt hi hpoint.symm

theorem length_slicedBits (s : State) (v : List Cx) : (s.slicedBits v).length = v.length * s.nBit := by
  simp [State.slicedBits, List.length_flatMap]

/-- Settles O32: by induction on the points, the nearest one so far is the first at the smallest distance. -/
theorem sliceNearest : Obligations.SliceNearest := by
  unfold Obligations.SliceNearest
  exact fun s => ⟨slice_spec s, fun hnum hcheck i => slice_point hnum hcheck, length_slicedBits s⟩

/-! ### The tracking update -/

/-- What the carrier and demodulator checks say of the pilot's bin and the loop gains (45_control.md R346, R348). -/
structure State.TrackingChecks (s : State) : Prop where
  bin : 1 ≤ (s.bin s.pilot : Scalar)
  sym : 2 * (s.bin s.pilot : Scalar) < s.nSym
  kP : 0 ≤ s.kP ∧ s.kP ≤ 1
  kI : 0 ≤ s.kI ∧ s.kI ≤ 1

theorem trackingChecks_of_checks (hcarrier : s.carrierCheck = true) (hdemod : s.demodCheck = true) :
    s.TrackingChecks := by
  simp only [State.carrierCheck, State.demodCheck, gainOk, allBelow, Bool.and_eq_true, List.all_eq_true, List.mem_range,
    decide_eq_true_eq] at hcarrier hdemod
  obtain ⟨⟨⟨-, hbins⟩, -⟩, -⟩ := hcarrier
  obtain ⟨⟨hpilot, ⟨⟨-, hp₀⟩, hp₁⟩⟩, ⟨⟨-, hi₀⟩, hi₁⟩⟩ := hdemod
  obtain ⟨hbin, hsym⟩ := hbins _ hpilot
  exact ⟨mod_cast hbin, mod_cast hsym, ⟨hp₀, hp₁⟩, ⟨hi₀, hi₁⟩⟩

theorem State.TrackingChecks.nSym_pos (h : s.TrackingChecks) : 0 < (s.nSym : Scalar) := by linarith [h.bin, h.sym]

theorem pilotError_zero {z : Cx} (h : z = Cx.zero ∨ s.point (s.slice z) = Cx.zero) : s.pilotError z = 0 := if_pos h

theorem pilotError_eq_argTurn {z : Cx} (hz : z ≠ Cx.zero) (hd : s.point (s.slice z) ≠ Cx.zero) :
    s.pilotError z = s.num.argTurn (s.num.cxMul z (s.point (s.slice z)).conj) := if_neg (not_or.2 ⟨hz, hd⟩)

theorem abs_pilotError_le (s : State) (z : Cx) : |s.pilotError z| ≤ 1 / 2 := by
  by_cases h : z = Cx.zero ∨ s.point (s.slice z) = Cx.zero
  · rw [pilotError_zero h]; norm_num
  · obtain ⟨hz, hd⟩ := not_or.1 h
    rw [pilotError_eq_argTurn hz hd, abs_le]
    obtain ⟨hlow, hup⟩ := s.num.argTurn_range (s.num.cxMul z (s.point (s.slice z)).conj)
    exact ⟨by linarith, hup⟩

/-- The tracking update writes position, ratio and their four mirrors (42_demodulator.md R232). -/
theorem track_eq (s : State) (z : Cx) :
    let tau := s.timingOffset (s.pilotError z)
    let pos := s.num.sub s.rs.pos (s.num.mul (s.num.mul s.kP tau) s.rs.ratio)
    let r := s.num.mul s.rs.ratio (s.num.sub 1 (s.num.div (s.num.mul s.kI tau) (s.nSym : Scalar)))
    s.track z = { s with
      rs := { s.rs with pos := pos, ratio := r }
      reg := { s.reg with rsPos := bits64 pos, rsRatio := bits64 r, clkPhase := bits64 tau,
                          clkFreq := bits64 (s.num.sub r 1) } } := rfl

section
variable (hchecks : s.TrackingChecks)
include hchecks

/-- An error of at most half a turn is an offset of at most half a period of the pilot (42_demodulator.md R234). -/
theorem abs_timingOffset_le (hnum : s.num.Exact) {e : Scalar} (he : |e| ≤ 1 / 2) :
    |s.timingOffset e| ≤ (s.nSym : Scalar) / (2 * (s.bin s.pilot : Scalar)) := by
  have hb : 0 < (s.bin s.pilot : Scalar) := zero_lt_one.trans_le hchecks.bin
  rw [State.timingOffset, hnum.div, hnum.mul, abs_div, abs_mul, abs_of_pos hb, Nat.abs_cast,
    div_le_div_iff₀ hb (by positivity)]
  have hN : (0 : Scalar) ≤ s.nSym := Nat.cast_nonneg _
  nlinarith [mul_le_mul_of_nonneg_right he (mul_nonneg hN hb.le)]

/-- τ scaled by a gain in [0, 1] is at most N / 2. -/
theorem abs_gain_mul_offset_le {g tau : Scalar} (hg : 0 ≤ g ∧ g ≤ 1)
    (htau : |tau| ≤ (s.nSym : Scalar) / (2 * (s.bin s.pilot : Scalar))) : |g * tau| ≤ (s.nSym : Scalar) / 2 := by
  obtain ⟨hg₀, hg₁⟩ := hg
  have hN : (0 : Scalar) ≤ s.nSym := Nat.cast_nonneg _
  calc |g * tau| = g * |tau| := by rw [abs_mul, abs_of_nonneg hg₀]
    _ ≤ |tau| := mul_le_of_le_one_left (abs_nonneg _) hg₁
    _ ≤ s.nSym / (2 * s.bin s.pilot) := htau
    _ ≤ s.nSym / 2 := by
      have := hchecks.bin
      gcongr
      linarith

theorem track_bounds (hnum : s.num.Exact) (hratio : 0 < s.rs.ratio) (z : Cx) :
    |(s.track z).rs.pos - s.rs.pos| ≤ (s.nSym : Scalar) * s.rs.ratio / 2 ∧
    s.rs.ratio / 2 ≤ (s.track z).rs.ratio ∧ (s.track z).rs.ratio ≤ 3 * s.rs.ratio / 2 := by
  have htau := abs_timingOffset_le hchecks hnum (abs_pilotError_le s z)
  have hN := hchecks.nSym_pos
  rw [track_eq]
  simp only [hnum.sub, hnum.mul, hnum.div]
  generalize s.timingOffset (s.pilotError z) = tau at htau
  have hpos := abs_gain_mul_offset_le hchecks hchecks.kP htau
  have hfactor : |s.kI * tau / s.nSym| ≤ 1 / 2 := by
    rw [abs_div, Nat.abs_cast, div_le_iff₀ hN]
    linarith [abs_gain_mul_offset_le hchecks hchecks.kI htau]
  obtain ⟨hlow, hup⟩ := abs_le.1 hfactor
  refine ⟨?_, by nlinarith, by nlinarith⟩
  calc |s.rs.pos - s.kP * tau * s.rs.ratio - s.rs.pos| = |s.kP * tau| * s.rs.ratio := by
        rw [sub_sub_cancel_left, abs_neg, abs_mul, abs_of_pos hratio]
    _ ≤ s.nSym / 2 * s.rs.ratio := by gcongr
    _ = s.nSym * s.rs.ratio / 2 := by ring

end

/-- Settles O33: an angle is at most half a turn, so τ at most half a period of the pilot, and the gains are at most 1. -/
theorem trackUpdateAndBounds : Obligations.TrackUpdateAndBounds := by
  unfold Obligations.TrackUpdateAndBounds
  refine fun s z => ⟨pilotError_zero, pilotError_eq_argTurn, track_eq s z, fun hnum hcarrier hdemod hratio => ?_⟩
  have hchecks := trackingChecks_of_checks hcarrier hdemod
  obtain ⟨hpos, hlow, hup⟩ := track_bounds hchecks hnum hratio z
  exact ⟨abs_timingOffset_le hchecks hnum (abs_pilotError_le s z), hpos, hlow, hup, (half_pos hratio).trans_le hlow⟩

end

end Sys2Proof.Machine
end

section
/-! PROOFS. The bounds of the drift and of the ratio it gives (44_frame_rx.md R307). -/

namespace Sys2Proof.Machine

/-! ### A least-squares slope is at most the largest step -/

section
variable {f g : Nat → Scalar}

/-- Two rising sequences, the first with the sum 0, have a nonnegative sum of products (Chebyshev's inequality). -/
theorem sum_mul_nonneg_of_monotone (hf : Monotone f) (hg : Monotone g) {n : Nat}
    (hsum : ∑ t ∈ Finset.range n, f t = 0) : 0 ≤ ∑ t ∈ Finset.range n, f t * g t := by
  obtain rfl | hn := n.eq_zero_or_pos
  · rfl
  · have h := ((hf.monovary hg).monovaryOn (Finset.range n)).sum_mul_sum_le_card_mul_sum
    rw [hsum, zero_mul, Finset.card_range] at h
    exact nonneg_of_mul_nonneg_right h (Nat.cast_pos.2 hn)

/-- The deviations `f` of the times from their mean rise by 1: where `g` moves by at most `d` a step, its covariance with
them is at most `d` times their variance. -/
theorem abs_sum_mul_le_of_step_le {d : Scalar} (hf : ∀ t, f (t + 1) = f t + 1) (hg : ∀ t, |g (t + 1) - g t| ≤ d) {n : Nat}
    (hsum : ∑ t ∈ Finset.range n, f t = 0) :
    |∑ t ∈ Finset.range n, f t * g t| ≤ d * ∑ t ∈ Finset.range n, f t * f t := by
  have hmono : Monotone f := monotone_nat_of_le_succ fun t => by rw [hf]; exact le_add_of_nonneg_right zero_le_one
  have hcov (a : Scalar) (ha : ∀ t, -d ≤ a * (g (t + 1) - g t)) :
      0 ≤ d * ∑ t ∈ Finset.range n, f t * f t + a * ∑ t ∈ Finset.range n, f t * g t := by
    have hrise : Monotone fun t => d * f t + a * g t := monotone_nat_of_le_succ fun t => by rw [hf]; linarith [ha t]
    rw [Finset.mul_sum, Finset.mul_sum, ← Finset.sum_add_distrib]
    exact (sum_mul_nonneg_of_monotone hmono hrise hsum).trans_eq (Finset.sum_congr rfl fun t _ => by ring)
  have hlow := hcov 1 fun t => by linarith [(abs_le.1 (hg t)).1]
  have hup := hcov (-1) fun t => by linarith [(abs_le.1 (hg t)).2]
  exact abs_le.2 ⟨by linarith, by linarith⟩

theorem sum_range_sub_mid (n : Nat) : ∑ t ∈ Finset.range n, ((t : Scalar) - ((n : Scalar) - 1) / 2) = 0 := by
  have hid : ∑ t ∈ Finset.range n, (t : Scalar) = (n : Scalar) * ((n : Scalar) - 1) / 2 := by
    induction n with
    | zero => simp
    | succ n ih => rw [Finset.sum_range_succ, ih]; push_cast; ring
  rw [Finset.sum_sub_distrib, hid, Finset.sum_const, Finset.card_range, nsmul_eq_mul]
  ring

end

/-! ### The drift -/

section
variable {s : State} (hnum : s.num.Exact)
include hnum

/-- `wrap` answers an angle in (−1/2, 1/2] turns (00_scope.md R12). -/
theorem wrapTurn_range (a : Scalar) : -1 / 2 < s.num.wrapTurn a ∧ s.num.wrapTurn a ≤ 1 / 2 := by
  rw [hnum.wrapTurn_eq]
  have hle : a - 1 / 2 ≤ ((a - 1 / 2).ceil : Scalar) := Rat.le_ceil
  have hlt : ((a - 1 / 2).ceil : Scalar) < a - 1 / 2 + 1 := Rat.ceil_lt
  constructor <;> linarith

/-- The unwrapped phase moves by at most half a turn a block (44_frame_rx.md R307). -/
theorem abs_unwrapped_step_le (rs : List (List Cx)) (t : Nat) : |s.unwrapped rs (t + 1) - s.unwrapped rs t| ≤ 1 / 2 := by
  rw [State.unwrapped, hnum.add, add_sub_cancel_left, abs_le]
  obtain ⟨hlow, hup⟩ := wrapTurn_range hnum (s.num.sub (s.trainError rs (t + 1)) (s.trainError rs t))
  exact ⟨by linarith, hup⟩

theorem timingOffset_sub (a b : Scalar) : s.timingOffset a - s.timingOffset b = s.timingOffset (a - b) := by
  simp only [State.timingOffset, hnum.div, hnum.mul]
  ring

theorem midTraining_eq : s.midTraining = ((s.nTrain : Scalar) - 1) / 2 := by
  rw [State.midTraining, hnum.sub, hnum.div]

/-- The drift in plain arithmetic, for two training blocks or more (44_frame_rx.md R307). -/
theorem drift_eq (rs : List (List Cx)) (hL : 2 ≤ s.nTrain) :
    s.drift rs =
      (∑ t ∈ Finset.range s.nTrain, ((t : Scalar) - s.midTraining) * (s.timingOffset (s.unwrapped rs t) -
        (∑ t ∈ Finset.range s.nTrain, s.timingOffset (s.unwrapped rs t)) / s.nTrain)) /
      ∑ t ∈ Finset.range s.nTrain, ((t : Scalar) - s.midTraining) * ((t : Scalar) - s.midTraining) := by
  rw [State.drift, if_pos hL]
  simp only [hnum.div, hnum.sum_eq, hnum.mul, hnum.sub, sum_map_range]

/-- The drift is at most half a period of the pilot a block (44_frame_rx.md R307). -/
theorem abs_drift_le (hchecks : s.TrackingChecks) (rs : List (List Cx)) :
    |s.drift rs| ≤ (s.nSym : Scalar) / (2 * (s.bin s.pilot : Scalar)) := by
  have hbound : (0 : Scalar) ≤ (s.nSym : Scalar) / (2 * (s.bin s.pilot : Scalar)) := by positivity
  by_cases hL : 2 ≤ s.nTrain
  · rw [drift_eq hnum rs hL, abs_div]
    have hvar : 0 ≤ ∑ t ∈ Finset.range s.nTrain, ((t : Scalar) - s.midTraining) * ((t : Scalar) - s.midTraining) :=
      Finset.sum_nonneg fun t _ => mul_self_nonneg _
    rw [abs_of_nonneg hvar]
    refine div_le_of_le_mul₀ hvar hbound (abs_sum_mul_le_of_step_le (fun t => ?_) (fun t => ?_) ?_)
    · push_cast; ring
    · rw [sub_sub_sub_cancel_right, timingOffset_sub hnum]
      exact abs_timingOffset_le hchecks hnum (abs_unwrapped_step_le hnum rs t)
    · rw [midTraining_eq hnum]
      exact sum_range_sub_mid s.nTrain
  · rw [State.drift, if_neg hL, abs_zero]
    exact hbound

/-- The initial ratio is positive (44_frame_rx.md R307). -/
theorem initialRatio_pos (hchecks : s.TrackingChecks) (rs : List (List Cx)) : 0 < s.initialRatio rs := by
  have hN := hchecks.nSym_pos
  have hdrift : |s.drift rs| < s.nSym :=
    (abs_drift_le hnum hchecks rs).trans_lt (div_lt_self hN (by linarith [hchecks.bin]))
  rw [State.initialRatio, hnum.div, hnum.add]
  exact div_pos hN (by linarith [(abs_lt.1 hdrift).1])

end

end Sys2Proof.Machine
end

section
/-! PROOFS. In exact arithmetic the resampler's ratio stays positive (42_demodulator.md R234; 44_frame_rx.md R307;
45_control.md R345, R349). -/

namespace Sys2Proof.Machine

section
variable {s t u : State} {ph : Phase} {c : Instr}

/-! ### What an engine step does to the ratio -/

theorem phaseEffect_ratio (hph : ph ≠ .calibrate) (he : PhaseEffect s ph u) : u.rs.ratio = s.rs.ratio := by
  cases he with
  | calibrate => exact absurd rfl hph
  | unit hp => rw [popSample_frame hp]
  | sample hp => rw [appendSample_rs, popSample_frame hp]
  | _ => rfl

/-- Of the phases' steps, calibration alone writes the ratio. -/
theorem stepPhase_ratio (h : s.stepPhase ph = some t) :
    t.rs.ratio = s.rs.ratio ∨ ph = .calibrate ∧ ∃ rs, t.rs.ratio = s.initialRatio rs := by
  by_cases hph : ph = .calibrate
  · subst hph
    simp only [State.stepPhase, State.stepCalibrate, Option.some.injEq] at h
    exact .inr ⟨rfl, (List.range s.nTrain).map s.rxTraining, by rw [← h, load_rs]; rfl⟩
  · obtain ⟨u, heff, hexit⟩ := stepPhase_cases h
    have hrs : t.rs = u.rs := by cases hexit <;> simp
    rw [hrs]
    exact .inl (phaseEffect_ratio hph heff)

/-- Of the fixed actions, the tracking update alone writes the ratio. -/
theorem perform_ratio {a : Act} (h : s.perform a = some t) :
    t.rs.ratio = s.rs.ratio ∨ ∃ z, a = .track z ∧ t = s.track z := by
  cases perform_cases h with
  | track z => exact .inr ⟨z, rfl, rfl⟩
  | _ => exact .inl rfl

/-! ### The commands that write it have their checks -/

theorem trackingChecks_of_command (hc : c = .recv ∨ ∃ n, c = .demod n) (h : s.checks c = true) : s.TrackingChecks := by
  obtain rfl | ⟨n, rfl⟩ := hc <;> simp only [State.checks, Bool.and_eq_true] at h
  · obtain ⟨⟨⟨⟨⟨hcarrier, -⟩, hdemod⟩, -⟩, -⟩, -⟩ := h
    exact trackingChecks_of_checks hcarrier hdemod
  · obtain ⟨⟨⟨⟨hcarrier, -⟩, hdemod⟩, -⟩, -⟩ := h
    exact trackingChecks_of_checks hcarrier hdemod

/-- The tracking update is DEMOD's or RECV's. -/
theorem command_of_track {z : Cx} {rest : List Act} (he : s.eng = .run c (.track z :: rest) ph)
    (h : s.EngineConsistent) : c = .recv ∨ ∃ n, c = .demod n := by
  by_cases hrecv : c = .recv
  · exact .inl hrecv
  · obtain ⟨-, ⟨-, hall⟩ | ⟨-, -, htodo⟩⟩ := (engineConsistent_other hrecv he).1 h
    · have hz : (Act.track z).belongs c = true := List.all_eq_true.1 hall _ List.mem_cons_self
      cases c with
      | demod n => exact .inr ⟨n, rfl⟩
      | _ => cases hz
    · obtain htodo | htodo := htodo <;> cases htodo

/-! ### Every step keeps it positive -/

theorem ratio_engineStep (he : s.engineStep = some t) (h : s.RatioPositive) : 0 < t.rs.ratio := by
  obtain ⟨hnum, hcons, hchecks, hratio⟩ := h
  obtain ⟨c, a, rest, ph, hc, he⟩ | ⟨c, ph, hc, he⟩ := engineStep_cases he
  · obtain hkept | ⟨z, rfl, rfl⟩ := perform_ratio he
    · rwa [hkept, load_rs]
    · have htrack := trackingChecks_of_command (command_of_track hc hcons) (hchecks _ _ _ hc)
      have hload := load_run hc rest ph
      obtain ⟨-, hlow, -⟩ := track_bounds (s := s.load rest ph) (by rw [hload]; exact { htrack with }) (by rwa [load_num])
        (by rwa [load_rs]) z
      rw [load_rs] at hlow
      exact (half_pos hratio).trans_le hlow
  · obtain hkept | ⟨rfl, rs, hinit⟩ := stepPhase_ratio he
    · rwa [hkept]
    · have htrack := trackingChecks_of_command (.inl (recv_of_calibrate hc hcons)) (hchecks _ _ _ hc)
      rw [hinit]
      exact initialRatio_pos hnum htrack rs

theorem ratioPositive_engineStep (he : s.engineStep = some t) (h : s.RatioPositive) : t.RatioPositive where
  exact := by rw [(keepsSetup_engineStep he).num]; exact h.exact
  engine := engineConsistent_engineStep he h.engine
  checks := checksHold_engineStep he h.engine h.checks
  ratio := ratio_engineStep he h

/-- A command that begins with its checks holding leaves a positive ratio: RS_INIT and RS_RATIO load a checked one
(45_control.md R349). -/
theorem ratio_begun (hcheck : s.checks c = true) (hratio : 0 < s.rs.ratio) : 0 < (begun c s).rs.ratio := by
  have hload (todo : List Act) (ph : Phase) : 0 < (s.load todo ph).rs.ratio := by rwa [load_rs]
  have hstart (n : Nat) (ph : Phase) : 0 < (s.startCounted n ph).rs.ratio :=
    startCounted_keeps (P := fun u => 0 < u.rs.ratio) n ph hratio (hload _ _)
  have hratio₀ (h : s.ratioCheck = true) : 0 < s.ratio0 := of_decide_eq_true (Bool.and_eq_true_iff.1 h).2
  cases c with
  | srst => exact one_pos
  | rsInit => exact hratio₀ hcheck
  | rsRatio => exact hratio₀ hcheck
  | send => exact hload _ _
  | recv => rw [begun, load_rs]; exact hratio
  | mod n => exact hstart _ _
  | demod n => exact hstart _ _
  | rsAdv n => exact hstart _ _
  | _ => exact hratio

theorem ratio_issued {i : Instr} (ht : issued i s = t) (h : 0 < s.rs.ratio) : t.num = s.num ∧ 0 < t.rs.ratio := by
  cases issued_cases ht with
  | abort => exact ⟨rfl, one_pos⟩
  | reject => exact ⟨rfl, h⟩
  | bad => exact ⟨rfl, h⟩
  | begin hb hi => exact ⟨begun_num _ _, ratio_begun (by rwa [accept_checks]) h⟩

theorem ratio_issueIllegal (ht : s.issueIllegal = t) (h : 0 < s.rs.ratio) : t.num = s.num ∧ 0 < t.rs.ratio := by
  cases issueIllegal_cases ht <;> exact ⟨rfl, h⟩

theorem ratio_transact {x : HostTxn} (ht : s.transact x = t) (h : 0 < s.rs.ratio) : 0 < t.rs.ratio := by
  cases transact_cases ht with
  | write hw => cases hw <;> exact h
  | port => exact h
  | reset => exact one_pos

theorem ratioPositive_step (hs : step s = .next t) (h : s.RatioPositive) : t.RatioPositive := by
  refine step_keeps (P := State.RatioPositive) (fun _ _ _ h => { h with }) (fun s x h => ?_) (fun s i h => ?_)
    (fun s h => ?_) (fun _ _ h he => ratioPositive_engineStep he h) h hs
  · exact ⟨by rw [transact_num]; exact h.exact, engineConsistent_transact rfl h.engine, checksHold_transact rfl h.checks,
      ratio_transact rfl h.ratio⟩
  · obtain ⟨hnum, hratio⟩ := ratio_issued (i := i) rfl h.ratio
    exact ⟨by rw [hnum]; exact h.exact, engineConsistent_issued rfl h.engine, checksHold_issued rfl h.checks, hratio⟩
  · obtain ⟨hnum, hratio⟩ := ratio_issueIllegal rfl h.ratio
    exact ⟨by rw [hnum]; exact h.exact, engineConsistent_issueIllegal rfl h.engine, checksHold_issueIllegal rfl h.checks,
      hratio⟩

end

/-- Settles O54: a tracking update scales the ratio by a positive factor, calibration's and RS_INIT's and RS_RATIO's ratios
are positive, and nothing else writes it. -/
theorem stepKeepsRatioPositive : Obligations.StepKeepsRatioPositive := by
  unfold Obligations.StepKeepsRatioPositive
  exact fun s t h hs => ratioPositive_step hs h

end Sys2Proof.Machine
end

section
/-! PROOFS. The resampler's clock, and what the tracking update and the blocks of a buffer read beside it
(42_demodulator.md R220, R227, R232). -/

namespace Sys2Proof.Machine

/-- The state `x` with the clock of `s`: position, ratio and their mirrors. -/
def State.withClock (x s : State) : State :=
  { x with
    rs := { x.rs with pos := s.rs.pos, ratio := s.rs.ratio }
    reg := { x.reg with rsPos := s.reg.rsPos, rsRatio := s.reg.rsRatio, clkFreq := s.reg.clkFreq,
                        clkPhase := s.reg.clkPhase } }

section
variable {x s t : State}

/-- The arithmetic, the configuration and the CAL table are the same in both states. -/
structure SameSetup (x s : State) : Prop where
  num : x.num = s.num
  cfg : x.cfg = s.cfg
  cal : x.cal = s.cal

theorem SameSetup.nSym (h : SameSetup x s) : x.nSym = s.nSym := by rw [State.nSym, h.cfg]; rfl

theorem SameSetup.withClock (h : SameSetup x s) : SameSetup (x.withClock s) s := ⟨h.num, h.cfg, h.cal⟩

theorem SameSetup.trans (h : SameSetup x s) (k : SameSetup s t) : SameSetup x t :=
  ⟨h.num.trans k.num, h.cfg.trans k.cfg, h.cal.trans k.cal⟩

theorem SameSetup.pilotOf (h : SameSetup x s) : x.pilotOf = s.pilotOf := by
  funext v
  rw [State.pilotOf, State.pilot, h.cfg]
  rfl

theorem rsMoved_withClock (h : SameSetup x s) (k : Nat) : (x.withClock s).rsMoved k = x.withClock (s.rsMoved k) := by
  simp only [State.rsMoved, State.setPos, State.withClock, h.num]

/-! ### The tracking update -/

theorem SameSetup.nearest (h : SameSetup x s) (v : Cx) (n : Nat) : x.nearest v n = s.nearest v n := by
  have hdist (i : Nat) : x.pointDistance v i = s.pointDistance v i := by
    simp only [State.pointDistance, State.point, h.num, h.cfg]
  induction n with
  | zero => rfl
  | succ n ih => rw [State.nearest, State.nearest, ih, hdist, hdist]

theorem SameSetup.pilotError (h : SameSetup x s) (z : Cx) : x.pilotError z = s.pilotError z := by
  have hslice : x.slice z = s.slice z := by rw [State.slice, h.nearest, State.nBit, h.cfg]; rfl
  have hpoint (i : Nat) : x.point i = s.point i := by rw [State.point, h.cfg]; rfl
  rw [State.pilotError, hslice, hpoint, h.num]
  rfl

/-- Beside the clock, a tracking update reads the setup alone. -/
theorem track_withClock (h : SameSetup x s) (z : Cx) : (x.withClock s).track z = x.withClock (s.track z) := by
  rw [State.track, State.track, h.withClock.pilotError]
  generalize s.pilotError z = e
  simp only [State.trackBy, State.timingOffset, State.setPhase, State.setRatio, State.setPos, State.withClock, State.kP,
    State.kI, State.nSym, State.bin, State.pilot, h.num, h.cfg]

/-! ### The blocks over a buffer -/

/-- The next window over `rs.buf` alone, short where the buffer ends (42_demodulator.md R220). -/
def State.nextWindow (s : State) : List Scalar := rsOutputs s.num s.rs.buf s.rs.ratio s.nSym s.rs.pos

/-- The calibrated symbols of a window under the CAL table (42_demodulator.md R227). -/
def State.symbolsOf (s : State) (w : List Scalar) : List Cx := s.calibrated s.calGains w

/-- The state after the whole window `w` and its tracking update (42_demodulator.md R232). -/
def State.afterWindow (s : State) (w : List Scalar) : State := (s.rsMoved w.length).track (s.pilotOf (s.symbolsOf w))

variable {n : Nat}

theorem demodBlocks_short (h : s.nextWindow.length < s.nSym) :
    s.demodBlocks (n + 1) = ([], s.rsMoved s.nextWindow.length) := if_pos h

theorem demodBlocks_whole (h : s.nextWindow.length = s.nSym) :
    s.demodBlocks (n + 1) =
      (s.symbolsOf s.nextWindow :: ((s.afterWindow s.nextWindow).demodBlocks n).1,
        ((s.afterWindow s.nextWindow).demodBlocks n).2) := if_neg h.not_lt

theorem length_rsOutputs_le (num : NumTable) (buf : List Scalar) (ratio : Scalar) (n : Nat) (pos : Scalar) :
    (rsOutputs num buf ratio n pos).length ≤ n := by
  induction n generalizing pos with
  | zero => exact le_rfl
  | succ n ih =>
    rw [rsOutputs]
    split
    · exact Nat.succ_le_succ (ih _)
    · exact Nat.zero_le _

theorem nextWindow_cases (s : State) : s.nextWindow.length < s.nSym ∨ s.nextWindow.length = s.nSym :=
  (length_rsOutputs_le ..).lt_or_eq

theorem SameSetup.symbolsOf (h : SameSetup x s) : x.symbolsOf = s.symbolsOf := by
  obtain ⟨hnum, hcfg, hcal⟩ := h
  have e : { s with num := x.num, cfg := x.cfg, cal := x.cal } = s := by rw [hnum, hcfg, hcal]
  rw [← e]
  rfl

theorem afterWindow_withClock (h : SameSetup x s) (w : List Scalar) :
    (x.withClock s).afterWindow w = x.withClock (s.afterWindow w) := by
  have hmoved : SameSetup x (s.rsMoved w.length) := ⟨h.num, h.cfg, h.cal⟩
  rw [State.afterWindow, State.afterWindow, rsMoved_withClock h, h.withClock.symbolsOf, h.withClock.pilotOf,
    track_withClock hmoved]

theorem nextWindow_withClock (h : SameSetup x s) (hbuf : x.rs.buf = s.rs.buf) :
    (x.withClock s).nextWindow = s.nextWindow := by
  simp only [State.nextWindow, State.nSym, State.withClock, h.num, h.cfg, hbuf]

theorem sameSetup_afterWindow (s : State) (w : List Scalar) :
    SameSetup s (s.afterWindow w) ∧ s.rs.buf = (s.afterWindow w).rs.buf := by
  rw [State.afterWindow, track_eq]
  exact ⟨⟨rfl, rfl, rfl⟩, rfl⟩

theorem demodBlocks_withClock (h : SameSetup x s) (hbuf : x.rs.buf = s.rs.buf) (n : Nat) :
    (x.withClock s).demodBlocks n = ((s.demodBlocks n).1, x.withClock (s.demodBlocks n).2) := by
  induction n generalizing s with
  | zero => rfl
  | succ n ih =>
    have hnext := nextWindow_withClock h hbuf
    have hN := h.withClock.nSym
    obtain hw | hw := nextWindow_cases s
    · rw [demodBlocks_short hw, demodBlocks_short (by rwa [hnext, hN]), hnext, rsMoved_withClock h]
    · obtain ⟨hsetup, hkept⟩ := sameSetup_afterWindow s s.nextWindow
      rw [demodBlocks_whole hw, demodBlocks_whole (by rwa [hnext, hN]), hnext, afterWindow_withClock h,
        h.withClock.symbolsOf, ih (h.trans hsetup) (hbuf.trans hkept)]

/-- The blocks change the clock alone. -/
theorem demodBlocks_clock (s : State) (n : Nat) : (s.demodBlocks n).2 = s.withClock (s.demodBlocks n).2 :=
  congrArg Prod.snd (demodBlocks_withClock (x := s) (s := s) ⟨rfl, rfl, rfl⟩ rfl n)

end

end Sys2Proof.Machine
end

section
/-! PROOFS. DEMOD n demodulates window after window over the buffer and SMP_IN, short where the input ends
(42_demodulator.md R220, R221, R227, R232). -/

namespace Sys2Proof.Machine

section
variable {s t u : State} {c : Instr} {n m k left : Nat} {win : List Scalar}

/-! ### One window -/

/-- The engine has taken samples and made `k` resampler steps from `s` to `t`: nothing else changed, and no sample was
lost or made up. -/
structure Moved (s : State) (k : Nat) (t : State) : Prop where
  frame : t = State.withClock { s with
    eng := t.eng
    port := { s.port with smpIn := t.port.smpIn }
    pcmLo := t.pcmLo
    rs := { s.rs with buf := t.rs.buf } } (s.rsMoved k)
  samples : t.allSamples = s.allSamples

theorem moved_zero (hmirror : s.reg.rsPos = bits64 s.rs.pos) : Moved s 0 s where
  frame := by simp only [State.withClock, State.rsMoved, rsPosition, State.setPos, ← hmirror]
  samples := rfl

theorem Moved.setup (h : Moved s k t) : SameSetup t s := by
  rw [h.frame]
  exact ⟨rfl, rfl, rfl⟩

theorem Moved.of_fetched (h : Fetched s u) (k' : Moved u k t) : Moved s k t where
  frame := k'.frame.trans (by rw [h.frame]; rfl)
  samples := k'.samples.trans h.samples

/-- The fixed actions that follow the whole window `w` (42_demodulator.md R220). -/
def State.windowActs (s : State) (w : List Scalar) : List Act := s.demodBlockActs (s.symbolsOf w)

theorem windowActs_of_fetched (h : Fetched s u) : u.windowActs = s.windowActs := by rw [h.frame]; rfl

theorem stepDemod_progress (h : s.fetch false s.rsNeed = .progress t) : s.stepDemod (left + 1) win = some t := by
  rw [State.stepDemod, h]

theorem stepDemod_open (hneed : s.rsNeed < s.rs.buf.length) (hopen : (win ++ [s.rsValue]).length < s.nSym) :
    s.stepDemod (left + 1) win = some (s.rsStep.load [] (.demod (left + 1) (win ++ [s.rsValue]))) := by
  rw [State.stepDemod, fetch_ready.2 hneed]
  exact if_neg hopen.not_ge

theorem stepDemod_whole (hneed : s.rsNeed < s.rs.buf.length) (hwhole : s.nSym ≤ (win ++ [s.rsValue]).length) :
    s.stepDemod (left + 1) win = some (s.rsStep.load (s.windowActs (win ++ [s.rsValue])) (.demod left [])) := by
  rw [State.stepDemod, fetch_ready.2 hneed]
  exact if_pos hwhole

theorem stepDemod_eos (h : s.fetch false s.rsNeed = .eos) : s.stepDemod (left + 1) win = some (s.endWith .none) := by
  rw [State.stepDemod, h]

/-- What DEMOD's next resampler step fixes, the window being `win` with that step's value: more of the window is to come,
or the block's actions. -/
def State.windowEng (s : State) (c : Instr) (left : Nat) (win : List Scalar) : Eng :=
  if s.nSym ≤ win.length then .run c (s.windowActs win) (.demod left []) else .run c [] (.demod (left + 1) win)

theorem reaches_rsStep (he : s.eng = .run c [] (.demod (left + 1) win)) (hneed : s.rsNeed < s.rs.buf.length) :
    s.Reaches { s.rsStep with eng := s.windowEng c left (win ++ [s.rsValue]) } := reaches_of_step fun b => by
  rw [engineStep_phase (s := { s with burst := b }) he]
  have hload := load_run (s := State.rsStep { s with burst := b }) he
  unfold State.windowEng
  split
  case isTrue hwhole => exact (stepDemod_whole (s := { s with burst := b }) hneed hwhole).trans (congrArg some (hload _ _))
  case isFalse hopen =>
    exact (stepDemod_open (s := { s with burst := b }) hneed (not_le.1 hopen)).trans (congrArg some (hload _ _))

/-- How the window `w`, of which `m` values are needed, ends in `t`: its block's actions are fixed, or the input is
exhausted. -/
inductive WindowEnd (c : Instr) (left m : Nat) (acts : List Act) (w : List Scalar) (t : State) : Prop
  | whole : w.length = m → t.eng = .run c acts (.demod left []) → WindowEnd c left m acts w t
  | short {win' : List Scalar} : w.length < m → t.eng = .run c [] (.demod (left + 1) win') → t.port.smpIn = [] →
    t.rs.buf.length ≤ t.rsNeed → WindowEnd c left m acts w t

/-- DEMOD fetches for and takes the resampler steps of a window of which `m` values are still to come. -/
theorem reaches_windowEnd (he : s.eng = .run c [] (.demod (left + 1) win)) (hlen : win.length + m = s.nSym) (hm : 0 < m)
    (hmirror : s.reg.rsPos = bits64 s.rs.pos) :
    ∃ t, s.Reaches t ∧ Moved s (s.rsAhead m).length t ∧
      WindowEnd c left m (s.windowActs (win ++ s.rsAhead m)) (s.rsAhead m) t := by
  induction m generalizing s win with
  | zero => cases hm
  | succ m ih =>
    obtain ⟨u, hreach, hu, hstop⟩ := reaches_fetched (ph := .demod (left + 1) win) (fun _ _ => stepDemod_progress) he
    have heu : u.eng = .run c [] (.demod (left + 1) win) := by rw [hu.frame]; exact he
    have hlen : win.length + (m + 1) = u.nSym := by rw [hu.frame]; exact hlen
    have hmirror : u.reg.rsPos = bits64 u.rs.pos := by rw [hu.frame]; exact hmirror
    rw [← rsAhead_of_fetched hu, ← windowActs_of_fetched hu]
    suffices h : ∃ t, u.Reaches t ∧ Moved u (u.rsAhead (m + 1)).length t ∧
        WindowEnd c left (m + 1) (u.windowActs (win ++ u.rsAhead (m + 1))) (u.rsAhead (m + 1)) t by
      obtain ⟨t, ht, hmoved, hend⟩ := h
      exact ⟨t, hreach.trans ht, hmoved.of_fetched hu, hend⟩
    obtain hneed | hneed := lt_or_ge u.rsNeed u.rs.buf.length
    · have hahead : u.rsAhead (m + 1) = u.rsValue :: u.rsStep.rsAhead m := rsAhead_succ (c := c) hneed
      have hwin : (win ++ [u.rsValue]).length = win.length + 1 := by simp
      have hstep := reaches_rsStep heu hneed
      unfold State.windowEng at hstep
      rw [hahead]
      obtain rfl | hm := m.eq_zero_or_pos
      · rw [if_pos (by omega)] at hstep
        exact ⟨_, hstep, ⟨rfl, rfl⟩, .whole rfl rfl⟩
      · rw [if_neg (by omega)] at hstep
        let v : State := { u.rsStep with eng := .run c [] (.demod (left + 1) (win ++ [u.rsValue])) }
        obtain ⟨t, ht, hmoved, hend⟩ := ih (s := v) rfl (show _ = u.nSym by omega) hm rfl
        refine ⟨t, hstep.trans ht, ⟨hmoved.frame, hmoved.samples⟩, ?_⟩
        rw [List.append_cons]
        cases hend with
        | whole hw heng => exact .whole (congrArg _ hw) heng
        | short hw heng hin hneed => exact .short (Nat.succ_lt_succ hw) heng hin hneed
    · have hempty : u.port.smpIn = [] := hstop.resolve_left hneed.not_gt
      have hall : u.allSamples = u.rs.buf := by simp [State.allSamples, hempty, sampleStream]
      have hnil : u.rsAhead (m + 1) = [] := by rw [State.rsAhead, hall, rsOutputs_exhausted hneed]
      rw [hnil]
      exact ⟨u, .refl u, moved_zero hmirror, .short m.succ_pos heu hempty hneed⟩

/-! ### One block -/

theorem reaches_pushSym {ph : Phase} {xs : List SymbolUnit} {rest : List Act}
    (he : s.eng = .run c (xs.map .pushSym ++ rest) ph)
    (hroom : s.port.symOut.length + xs.length ≤ s.par.depth.symOut) :
    s.Reaches { s with eng := .run c rest ph, port := { s.port with symOut := s.port.symOut ++ xs } } := by
  induction xs generalizing s with
  | nil =>
    rw [List.append_nil, ← show s.eng = .run c rest ph from he]
    exact .refl s
  | cons x xs ih =>
    rw [List.length_cons] at hroom
    have hpush : s.Reaches { s with
        eng := .run c (xs.map .pushSym ++ rest) ph
        port := { s.port with symOut := s.port.symOut ++ [x] } } := reaches_of_step fun b => by
      rw [engineStep_act (s := { s with burst := b }) he, load_run (s := { s with burst := b }) he]
      exact pushSym_eq_some.2 ⟨by dsimp only; omega, rfl⟩
    rw [List.append_cons]
    exact hpush.trans (ih rfl (by rw [List.length_append, List.length_singleton]; dsimp only; omega))

/-- The state with the symbols `v` pushed, the engine going on with the fixed actions `todo`. -/
def State.pushed (s : State) (c : Instr) (todo : List Act) (left : Nat) (v : List Cx) : State :=
  { s with eng := .run c todo (.demod left []), port := { s.port with symOut := s.port.symOut ++ v.map symbolUnit } }

/-- The state after the fixed actions of a block with the calibrated symbols `v`. -/
def State.blockDone (s : State) (c : Instr) (left : Nat) (v : List Cx) : State :=
  (s.countUp.pushed c [] left v).withClock (s.track (s.pilotOf v))

theorem reaches_blockDone {v : List Cx} (he : s.eng = .run c (s.demodBlockActs v) (.demod left []))
    (hroom : s.port.symOut.length + v.length ≤ s.par.depth.symOut) : s.Reaches (s.blockDone c left v) := by
  have hacts : s.demodBlockActs v = (v.map symbolUnit).map .pushSym ++ [.track (s.pilotOf v), .countUp] := by
    rw [List.map_map]; rfl
  rw [hacts] at he
  have hpush : s.Reaches (s.pushed c [.track (s.pilotOf v), .countUp] left v) :=
    reaches_pushSym he (by rwa [List.length_map])
  have htrack : (s.pushed c [.track (s.pilotOf v), .countUp] left v).Reaches
      ((s.pushed c [.countUp] left v).withClock (s.track (s.pilotOf v))) := reaches_of_step fun b =>
    congrArg some (track_withClock (x := { s.pushed c [.countUp] left v with burst := b }) (s := s) ⟨rfl, rfl, rfl⟩ _)
  exact (hpush.trans htrack).trans (reaches_of_step fun b => rfl)

theorem mirror_blockDone (s : State) (c : Instr) (left : Nat) (v : List Cx) :
    (s.blockDone c left v).reg.rsPos = bits64 (s.blockDone c left v).rs.pos := by
  rw [State.blockDone, track_eq]
  rfl

/-! ### All blocks -/

/-- The state with every sample within reach in `rs.buf`. -/
def State.filled (s : State) : State := { s with rs := { s.rs with buf := s.allSamples } }

@[simp] theorem allSamples_withClock (x s : State) : (x.withClock s).allSamples = x.allSamples := rfl

/-- DEMOD n has come from `s` to its end in `t`: the blocks' symbols are pushed and counted, the clock is as the blocks
leave it, and no sample is lost or made up. -/
structure Demodulated (s : State) (n : Nat) (t : State) : Prop where
  eng : t.eng = .idle
  st : t.st = s.st.ended .none
  symOut : t.port.symOut = s.port.symOut ++ (s.filled.demodBlocks n).1.flatten.map symbolUnit
  count : t.reg.count = s.reg.count + BitVec.ofNat 64 (s.filled.demodBlocks n).1.length
  clock : t = t.withClock (s.filled.demodBlocks n).2
  samples : t.allSamples = s.allSamples

theorem demodulated_zero (s : State) : Demodulated s 0 (s.endWith .none) where
  eng := rfl
  st := rfl
  symOut := by simp [State.demodBlocks]
  count := by simp [State.demodBlocks]
  clock := rfl
  samples := rfl

theorem demodulated_short (h : Moved s (s.rsAhead s.nSym).length u) (hshort : (s.rsAhead s.nSym).length < s.nSym) :
    Demodulated s (n + 1) (u.endWith .none) := by
  have hblocks : s.filled.demodBlocks (n + 1) = ([], s.filled.rsMoved (s.rsAhead s.nSym).length) :=
    demodBlocks_short (s := s.filled) hshort
  refine ⟨rfl, ?_, ?_, ?_, ?_, h.samples⟩
  · rw [h.frame]; rfl
  · rw [hblocks, h.frame]; exact (List.append_nil _).symm
  · rw [hblocks, h.frame]; exact (BitVec.add_zero _).symm
  · rw [hblocks, h.frame]; rfl

/-- The calibrated symbols of the next window over the samples within reach. -/
def State.symbolsAhead (s : State) : List Cx := s.symbolsOf (s.rsAhead s.nSym)

/-- The blocks after a whole window over the samples within reach, and the state they leave. -/
def State.blocksAfter (s : State) (n : Nat) : List (List Cx) × State :=
  (s.filled.afterWindow (s.rsAhead s.nSym)).demodBlocks n

theorem demodBlocks_filled (hwhole : (s.rsAhead s.nSym).length = s.nSym) :
    s.filled.demodBlocks (n + 1) = (s.symbolsAhead :: (s.blocksAfter n).1, (s.blocksAfter n).2) :=
  demodBlocks_whole (s := s.filled) hwhole

theorem track_of_moved (h : Moved s k u) (z : Cx) : u.track z = u.withClock ((s.rsMoved k).track z) := by
  have hclock : u = u.withClock (s.rsMoved k) := by rw [h.frame]; rfl
  have hsetup : SameSetup u (s.rsMoved k) := ⟨h.setup.num, h.setup.cfg, h.setup.cal⟩
  rw [← track_withClock hsetup, ← hclock]

theorem afterWindow_filled (s : State) (w : List Scalar) :
    s.filled.afterWindow w = s.filled.withClock (s.afterWindow w) :=
  afterWindow_withClock (x := s.filled) (s := s) ⟨rfl, rfl, rfl⟩ w

/-- The state after a block has the clock that the blocks over the samples within reach give it. -/
theorem filled_blockDone (h : Moved s (s.rsAhead s.nSym).length u) :
    (u.blockDone c left s.symbolsAhead).filled =
      (u.blockDone c left s.symbolsAhead).filled.withClock (s.filled.afterWindow (s.rsAhead s.nSym)) := by
  unfold State.blockDone
  rw [h.setup.pilotOf, track_of_moved h, afterWindow_filled]
  rfl

theorem setup_blockDone (h : Moved s k u) (v : List Cx) : SameSetup (u.blockDone c left v).filled s.filled :=
  ⟨h.setup.num, h.setup.cfg, h.setup.cal⟩

theorem buf_blockDone (h : Moved s k u) (v : List Cx) : (u.blockDone c left v).allSamples = s.allSamples := by
  rw [← h.samples]
  exact allSamples_withClock _ _

/-- The blocks go on over the same samples, from the clock the tracking update left. -/
theorem demodBlocks_blockDone (h : Moved s (s.rsAhead s.nSym).length u) :
    (u.blockDone c left s.symbolsAhead).filled.demodBlocks n =
      ((s.blocksAfter n).1, (u.blockDone c left s.symbolsAhead).filled.withClock (s.blocksAfter n).2) := by
  obtain ⟨hsetup, hbuf⟩ := sameSetup_afterWindow s.filled (s.rsAhead s.nSym)
  have hblocks := demodBlocks_withClock ((setup_blockDone (c := c) (left := left) h s.symbolsAhead).trans hsetup)
    ((buf_blockDone h _).trans hbuf) n
  rwa [← filled_blockDone h] at hblocks

theorem Demodulated.of_blockDone (h : Moved s (s.rsAhead s.nSym).length u) (hwhole : (s.rsAhead s.nSym).length = s.nSym)
    (k : Demodulated (u.blockDone c n s.symbolsAhead) n t) : Demodulated s (n + 1) t := by
  obtain ⟨heng, hst, hout, hcount, hclock, hsamples⟩ := k
  rw [demodBlocks_blockDone h] at hout hcount hclock
  rw [h.frame] at hst hout hcount
  refine ⟨heng, hst, ?_, ?_, ?_, hsamples.trans (buf_blockDone h _)⟩ <;> rw [demodBlocks_filled hwhole]
  · rw [hout, List.flatten_cons, List.map_append]
    exact List.append_assoc ..
  · rw [hcount, List.length_cons, Nat.add_comm, BitVec.ofNat_add]
    exact BitVec.add_assoc ..
  · exact hclock

/-- DEMOD comes to its end on marked input, or on enough of it, with room for its symbols. -/
theorem reaches_demodulated (he : s.eng = .run c [] (.demod n [])) (hpos : 0 < s.nSym)
    (hmirror : s.reg.rsPos = bits64 s.rs.pos)
    (hinput : s.port.smpInEos = true ∨ (s.filled.demodBlocks n).1.length = n)
    (hroom : s.port.symOut.length + ((s.filled.demodBlocks n).1.flatten.map symbolUnit).length ≤ s.par.depth.symOut) :
    ∃ t, s.Reaches t ∧ Demodulated s n t := by
  have hend {s : State} {m : Nat} {win : List Scalar} (he : s.eng = .run c [] (.demod m win))
      (h : ∀ b, State.stepDemod { s with burst := b } m win = some (State.endWith { s with burst := b } .none)) :
      s.Reaches (s.endWith .none) :=
    reaches_of_step fun b => (engineStep_phase (s := { s with burst := b }) he).trans (h b)
  induction n generalizing s with
  | zero => exact ⟨_, hend he fun b => rfl, demodulated_zero s⟩
  | succ n ih =>
    obtain ⟨u, hreach, hmoved, hstop⟩ := reaches_windowEnd he (m := s.nSym) (by simp) hpos hmirror
    cases hstop with
    | whole hwhole heng =>
      have hpar : u.par = s.par := by rw [hmoved.frame]; rfl
      have hout : u.port.symOut = s.port.symOut := by rw [hmoved.frame]; rfl
      have heos : u.port.smpInEos = s.port.smpInEos := by rw [hmoved.frame]; rfl
      have hacts : u.demodBlockActs s.symbolsAhead = s.demodBlockActs s.symbolsAhead := by
        rw [State.demodBlockActs, hmoved.setup.pilotOf]; rfl
      have hblocks := demodBlocks_blockDone (c := c) (left := n) (n := n) hmoved
      rw [demodBlocks_filled hwhole] at hinput hroom
      rw [List.flatten_cons, List.map_append, List.length_append, List.length_map, ← hout, ← hpar] at hroom
      have hd : u.Reaches (u.blockDone c n s.symbolsAhead) :=
        reaches_blockDone (by rw [hacts]; exact heng) (by omega)
      obtain ⟨t, ht, hend⟩ := ih (s := u.blockDone c n s.symbolsAhead) rfl (hmoved.setup.nSym ▸ hpos) (mirror_blockDone ..)
        (by rw [hblocks]; exact hinput.imp heos.trans Nat.succ.inj)
        (by
          rw [hblocks]
          show (u.port.symOut ++ s.symbolsAhead.map symbolUnit).length + _ ≤ u.par.depth.symOut
          rw [List.length_append, List.length_map]
          dsimp only at hroom ⊢
          omega)
      exact ⟨t, (hreach.trans hd).trans ht, hend.of_blockDone hmoved hwhole⟩
    | short hshort heng hin hneed =>
      have hblocks := demodBlocks_short (s := s.filled) (n := n) hshort
      have heos : u.port.smpInEos = true := by
        rw [hmoved.frame]
        exact hinput.resolve_right (by simp [hblocks])
      refine ⟨_, hreach.trans (hend heng fun b => stepDemod_eos ?_), demodulated_short hmoved hshort⟩
      exact (fetch_nil (s := { u with burst := b }) hin hneed).trans (if_pos heos)

/-- The blocks are the same from two starts with the same setup, clock and samples within reach. -/
theorem demodBlocks_of_start (h : SameSetup u s) (hclock : u.withClock s = u) (hsamples : u.allSamples = s.allSamples)
    (n : Nat) :
    u.filled.demodBlocks n = ((s.filled.demodBlocks n).1, u.filled.withClock (s.filled.demodBlocks n).2) := by
  have hblocks := demodBlocks_withClock (x := u.filled) (s := s.filled) ⟨h.num, h.cfg, h.cal⟩ hsamples n
  rwa [show u.filled.withClock s.filled = u.filled by rw [← hclock]; rfl] at hblocks

/-- An idle machine's DEMOD n comes to its end within one turn, from some burst on. -/
theorem exec_demod (hidle : s.busy = false) (hmirror : s.reg.rsPos = bits64 s.rs.pos) (hcheck : s.checks (.demod n) = true)
    (hinput : s.port.smpInEos = true ∨ (s.filled.demodBlocks n).1.length = n)
    (hroom : s.port.symOut.length + ((s.filled.demodBlocks n).1.flatten.map symbolUnit).length ≤ s.par.depth.symOut) :
    ∃ t, Demodulated (s.accept (.demod n)) n t ∧
      ∃ k, ∀ b, k ≤ b → exec (.demod n) { s with burst := b } = .next { t with burst := b } := by
  have hissued (b : Nat) : issued (.demod n) { s with burst := b } =
      { (s.accept (.demod n)).startCounted n (.demod n []) with burst := b } := by
    rw [issued_begun (s := { s with burst := b }) (i := .demod n) hidle hcheck]
    exact startCounted_burst (s := s.accept (.demod n)) rfl b n (.demod n [])
  suffices h : ∃ t, Demodulated (s.accept (.demod n)) n t ∧
      ((s.accept (.demod n)).startCounted n (.demod n [])).Reaches t by
    obtain ⟨t, hdemod, hreach⟩ := h
    exact ⟨t, hdemod, exec_of_reaches hissued hreach hdemod.eng⟩
  unfold State.startCounted
  split
  case isTrue hn => subst hn; exact ⟨_, demodulated_zero _, .refl _⟩
  case isFalse =>
    have hpos : 0 < s.nSym := Nat.cast_pos.1 (trackingChecks_of_command (.inr ⟨n, rfl⟩) hcheck).nSym_pos
    have hblocks := demodBlocks_of_start (u := (s.accept (.demod n)).load [] (.demod n [])) (s := s) ⟨rfl, rfl, rfl⟩ rfl rfl n
    have hblocks' := demodBlocks_of_start (u := s.accept (.demod n)) (s := s) ⟨rfl, rfl, rfl⟩ rfl rfl n
    obtain ⟨t, hreach, heng, hst, hout, hcount, hclock, hsamples⟩ :=
      reaches_demodulated (s := (s.accept (.demod n)).load [] (.demod n [])) rfl hpos hmirror (by rw [hblocks]; exact hinput)
        (by rw [hblocks]; exact hroom)
    rw [hblocks] at hout hcount hclock
    refine ⟨t, ⟨heng, hst, ?_, ?_, ?_, hsamples⟩, hreach⟩ <;> rw [hblocks']
    · exact hout
    · exact hcount
    · exact hclock

end

/-- Settles O30: by induction on n, DEMOD takes the resampler steps of a window and the actions of its block, or finds the
input ended. -/
theorem demodComputes : Obligations.DemodComputes := by
  unfold Obligations.DemodComputes
  intro s n hidle hmirrors hcheck q symbols hinput hroom
  obtain ⟨t, hdemod, k, hexec⟩ := exec_demod hidle hmirrors.pos hcheck hinput hroom
  refine ⟨k, fun b hb => ⟨{ t with burst := b }, hexec b hb, ?_⟩⟩
  have hframe := (demodFrame_exec (s := { s with burst := b }) hidle (hexec b hb)).frame
  have hblocks : (s.accept (.demod n)).filled.demodBlocks n = _ :=
    demodBlocks_of_start (u := s.accept (.demod n)) (s := s) ⟨rfl, rfl, rfl⟩ rfl rfl n
  obtain ⟨heng, hst, hout, hcount, hclock, hsamples⟩ := hdemod
  rw [hblocks] at hout hcount hclock
  have hclock : t = t.withClock q.2 := hclock
  have hq : q.2 = s.filled.withClock q.2 := demodBlocks_clock s.filled n
  have hreg : t.reg = { q.2.reg with count := t.reg.count } :=
    calc t.reg = { (s.withClock t).reg with count := t.reg.count } := (congrArg State.reg hframe :)
      _ = { (s.withClock q.2).reg with count := t.reg.count } :=
        (congrArg (fun y => { (s.withClock y).reg with count := t.reg.count }) hclock :)
      _ = { (s.filled.withClock q.2).reg with count := t.reg.count } := rfl
      _ = { q.2.reg with count := t.reg.count } := by rw [← hq]
  have hcount : t.reg.count = BitVec.ofNat 64 q.1.length := hcount.trans (BitVec.zero_add _)
  exact ⟨(busy_eq_false_iff _).2 heng, hst, hout, congrArg (·.rs.pos) hclock, congrArg (·.rs.ratio) hclock,
    hreg.trans (by rw [hcount]), hsamples⟩

end Sys2Proof.Machine
end

section
/-! PROOFS. The framed byte stream, its blocks and the frame's samples, counted (43_frame_tx.md R251, R254 to R256, R260;
41_modulator.md R201, R203). -/

namespace Sys2Proof.Machine

/-! ### The framed bytes -/

theorem length_chunkBytes {c : List Byte} (h : c.length ≤ Config.chunkMax) :
    (chunkBytes c).length = c.length + (c.length + 254) / 255 := by
  rw [Config.chunkMax] at h
  unfold chunkBytes
  split
  case isTrue hnil => rw [hnil]; rfl
  case isFalse hne =>
    have hpos := List.length_pos_of_ne_nil hne
    rw [List.length_cons]
    omega

/-- A chunk that fills takes 256 framed bytes, and what follows starts a new one. -/
theorem length_framedFrom {cur : List Byte} (hcur : cur.length < Config.chunkMax) (d : List Byte) :
    (framedFrom cur d).length = (cur ++ d).length + ((cur ++ d).length + 254) / 255 + 1 := by
  fun_induction framedFrom cur d with
  | case1 cur => rw [List.length_append, length_chunkBytes hcur.le, List.append_nil]; rfl
  | case2 cur b rest hfull ih =>
    have hrest := ih (Nat.zero_lt_succ _)
    rw [List.append_cons cur b rest, List.length_append, length_chunkBytes hfull.le, hrest, List.nil_append,
      List.length_append (bs := rest), hfull, Config.chunkMax]
    omega
  | case3 cur b rest hopen ih =>
    rw [List.append_cons cur b rest]
    exact ih (by rw [List.length_append, List.length_singleton] at hopen ⊢; omega)

theorem length_framed (d : List Byte) : (framed d).length = d.length + (d.length + 254) / 255 + 1 :=
  length_framedFrom (cur := []) (Nat.zero_lt_succ _) d

/-! ### The blocks -/

theorem length_flatMap_of_forall {α β : Type} {f : α → List β} {n : Nat} {l : List α}
    (h : ∀ a ∈ l, (f a).length = n) : (l.flatMap f).length = l.length * n := by
  rw [List.length_flatMap, List.map_congr_left h, List.map_const', List.sum_replicate_nat]

theorem length_bitsOfByte (b : Byte) : (bitsOfByte b).length = 8 := length_bitsOfNat 8 b.toNat

/-- Padding fills the last block and no more. -/
theorem length_bitBlocks {cap : Nat} (hcap : 0 < cap) (bits : List Bool) :
    (bitBlocks cap bits).length = (bits.length + cap - 1) / cap := by
  obtain ⟨hfull, z, hz, hflat⟩ := bitBlocks_spec hcap bits
  have hlen : (bitBlocks cap bits).length * cap = bits.length + z := by
    rw [← length_flatMap_of_forall (f := id) hfull, List.flatMap_id, hflat, List.length_append, List.length_replicate]
  refine (Nat.div_eq_of_lt_le ?_ ?_).symm
  · rw [hlen]; omega
  · rw [Nat.succ_mul, hlen]; omega

/-! ### The samples -/

section
variable (s : State)

theorem length_synth (syms : List Cx) : (s.synth syms).length = s.nSym := by simp [State.synth]

theorem length_modulate (blocks : List (List Cx)) : (s.modulate blocks).length = blocks.length * s.nSym :=
  length_flatMap_of_forall fun syms _ => length_synth s syms

theorem length_silence (n : Nat) : (silence n).length = n := List.length_replicate

theorem length_preamble : s.preamble.length = s.nTrain * s.nSym := by
  rw [State.preamble, length_modulate, List.length_map, List.length_range]

theorem length_dataBlocks (hcap : 0 < s.blockBits) (d : List Byte) :
    (s.dataBlocks d).length = (8 * (framed d).length + s.blockBits - 1) / s.blockBits := by
  rw [State.dataBlocks, List.length_map, length_bitBlocks hcap,
    length_flatMap_of_forall fun b _ => length_bitsOfByte b, Nat.mul_comm]

theorem length_frame (d : List Byte) :
    (s.frame d).length =
      s.cfg.silStart.toNat + s.nTrain * s.nSym + (s.dataBlocks d).length * s.nSym + s.cfg.silStop.toNat := by
  rw [State.frame, List.length_append, List.length_append, List.length_append, length_silence, length_preamble,
    length_modulate, length_silence]

end

/-- Settles O35: each part of the frame is counted by itself, the framed bytes by induction over the chunks. -/
theorem frameLength : Obligations.FrameLength := by
  unfold Obligations.FrameLength
  intro s d hcap f
  have hframed : (framed d).length = f := length_framed d
  refine ⟨hframed, ?_⟩
  rw [length_frame, length_dataBlocks s hcap, hframed]

end Sys2Proof.Machine
end

section
/-! PROOFS. SEND emits the frame of the bytes in BYTE_IN, phase after phase (43_frame_tx.md R250 to R258;
10_state.md R64). -/

namespace Sys2Proof.Machine

/-! ### Bits fed in parts -/

/-- Feeding goes on from the bits left over. -/
theorem feedBits_append (cap : Nat) (acc xs ys : List Bool) :
    feedBits cap acc (xs ++ ys) =
      ((feedBits cap acc xs).1 ++ (feedBits cap (feedBits cap acc xs).2 ys).1,
        (feedBits cap (feedBits cap acc xs).2 ys).2) := by
  fun_induction feedBits cap acc xs with
  | case1 acc => rfl
  | case2 acc b bs hfull r ih => rw [List.cons_append, feedBits, if_pos hfull, ih]; rfl
  | case3 acc b bs hopen ih => rw [List.cons_append, feedBits, if_neg hopen, ih]

/-- The blocks that padding the bits left over gives: one, or none where none are left (43_frame_tx.md R256). -/
def paddedRest (cap : Nat) (bits : List Bool) : List (List Bool) := if bits = [] then [] else [padBits cap bits]

theorem bitBlocks_eq (cap : Nat) (bits : List Bool) :
    bitBlocks cap bits = (feedBits cap [] bits).1 ++ paddedRest cap (feedBits cap [] bits).2 := by
  unfold bitBlocks paddedRest
  split <;> simp [*]

section
variable {s : State}

/-- The samples of blocks of bits (43_frame_tx.md R257, R258). -/
def State.blockSamples (s : State) (blocks : List (List Bool)) : List Scalar :=
  s.modulate (blocks.map s.blockSymbols)

theorem blockSamples_append (s : State) (xs ys : List (List Bool)) :
    s.blockSamples (xs ++ ys) = s.blockSamples xs ++ s.blockSamples ys := by
  rw [State.blockSamples, List.map_append, State.modulate, List.flatMap_append]
  rfl

theorem flatMap_emitBlock (s : State) (blocks : List (List Bool)) :
    blocks.flatMap s.emitBlock = s.emitSamples (s.blockSamples blocks) := by
  rw [State.blockSamples, State.modulate, State.emitSamples, List.flatMap_map, List.flatMap_assoc]
  rfl

/-! ### Places of SEND -/

/-- Where SEND stands between two rule steps: the payload bytes still to take, the transmit codec, the phase. -/
structure SendPlace where
  byteIn : List Byte
  tx : TxCodec
  phase : Phase

/-- SEND, begun in `s`, at a place, with the samples `xs` pushed and counted and `todo` fixed. -/
def State.sendAt (s : State) (xs : List Scalar) (todo : List Act) (p : SendPlace) : State :=
  { s with
    eng := .run .send todo p.phase
    port := { s.port with byteIn := p.byteIn, smpOut := s.port.smpOut ++ xs.flatMap s.sampleUnits }
    reg := { s.reg with count := s.reg.count + BitVec.ofNat 64 xs.length }
    tx := p.tx }

/-- SMP_OUT has room for the units of `xs`. -/
def State.HasRoomFor (s : State) (xs : List Scalar) : Prop :=
  s.port.smpOut.length + (xs.flatMap s.sampleUnits).length ≤ s.par.depth.smpOut

theorem hasRoomFor_of_append {xs ys : List Scalar} (h : s.HasRoomFor (xs ++ ys)) : s.HasRoomFor xs := by
  rw [State.HasRoomFor, List.flatMap_append, List.length_append] at h
  rw [State.HasRoomFor]
  omega

/-- From one place to another SEND emits exactly the samples `ys`, if SMP_OUT has room. -/
def State.Emits (s : State) (p : SendPlace) (ys : List Scalar) (q : SendPlace) : Prop :=
  ∀ xs, s.HasRoomFor (xs ++ ys) → (s.sendAt xs [] p).Reaches (s.sendAt (xs ++ ys) [] q)

theorem State.Emits.trans {p q r : SendPlace} {ys zs : List Scalar} (h : s.Emits p ys q) (k : s.Emits q zs r) :
    s.Emits p (ys ++ zs) r := by
  intro xs hroom
  rw [← List.append_assoc] at hroom ⊢
  exact (h xs (hasRoomFor_of_append hroom)).trans (k _ hroom)

/-- A sample's pushes and its count, sample after sample. -/
theorem reaches_emitSamples {ys xs : List Scalar} {p : SendPlace} (hroom : s.HasRoomFor (xs ++ ys)) :
    (s.sendAt xs (s.emitSamples ys) p).Reaches (s.sendAt (xs ++ ys) [] p) := by
  induction ys generalizing xs with
  | nil => rw [List.append_nil]; exact .refl _
  | cons y ys ih =>
    rw [List.append_cons] at hroom ⊢
    have hacts : s.emitSamples (y :: ys) = (s.sampleUnits y).map .pushSmp ++ .countUp :: s.emitSamples ys := by
      rw [State.emitSamples, List.flatMap_cons, List.append_assoc]
      rfl
    have hunits : (xs ++ [y]).flatMap s.sampleUnits = xs.flatMap s.sampleUnits ++ s.sampleUnits y := by
      rw [List.flatMap_append, List.flatMap_singleton]
    have hcount : s.reg.count + BitVec.ofNat 64 (xs ++ [y]).length = s.reg.count + BitVec.ofNat 64 xs.length + 1 := by
      rw [List.length_append, BitVec.ofNat_add]
      exact (BitVec.add_assoc ..).symm
    have hfits : (s.port.smpOut ++ xs.flatMap s.sampleUnits).length + (s.sampleUnits y).length ≤ s.par.depth.smpOut := by
      have hy := hasRoomFor_of_append hroom
      rwa [State.HasRoomFor, hunits, List.length_append, ← Nat.add_assoc, ← List.length_append] at hy
    have hsample : (s.sendAt xs (s.emitSamples (y :: ys)) p).Reaches
        (s.sendAt (xs ++ [y]) (s.emitSamples ys) p) := by
      rw [hacts, State.sendAt, State.sendAt, hunits, hcount, ← List.append_assoc]
      exact (reaches_pushSmp rfl hfits).trans (reaches_of_step fun b => rfl)
    exact hsample.trans (ih hroom)

/-- A step of SEND's rule fixes the samples it emits. -/
theorem emits_of_step {p q : SendPlace} {ys : List Scalar}
    (h : ∀ xs b, State.stepPhase { s.sendAt xs [] p with burst := b } p.phase =
      some { s.sendAt xs (s.emitSamples ys) q with burst := b }) : s.Emits p ys q := by
  intro xs hroom
  have hstep : (s.sendAt xs [] p).Reaches (s.sendAt xs (s.emitSamples ys) q) := reaches_of_step fun b => h xs b
  exact hstep.trans (reaches_emitSamples hroom)

/-! ### The phases -/

variable {d : List Byte} {tx : TxCodec}

theorem emits_lead (n : Nat) : s.Emits ⟨d, tx, .lead n⟩ (silence n) ⟨d, tx, .preamble 0⟩ := by
  induction n with
  | zero => exact emits_of_step fun xs b => rfl
  | succ n ih => exact (emits_of_step (ys := [0]) fun xs b => rfl).trans ih

theorem emits_preamble {i n : Nat} (h : i + n = s.nTrain) :
    s.Emits ⟨d, tx, .preamble i⟩ (s.modulate ((List.range' i n).map s.trainBlock)) ⟨d, .init, .data⟩ := by
  induction n generalizing i with
  | zero => exact emits_of_step fun xs b => if_neg h.ge.not_gt
  | succ n ih =>
    have hblock : s.Emits ⟨d, tx, .preamble i⟩ (s.synth (s.trainBlock i)) ⟨d, tx, .preamble (i + 1)⟩ :=
      emits_of_step fun xs b => if_pos (show i < s.nTrain by omega)
    exact hblock.trans (ih (by omega))

/-- The blocks that the bits of framed bytes fill, and the bits left over (43_frame_tx.md R258, EmitByte). -/
def State.fed (s : State) (tbits : List Bool) (bytes : List Byte) : List (List Bool) × List Bool :=
  feedBits s.blockBits tbits (bytes.flatMap bitsOfByte)

theorem fed_append (s : State) (tbits : List Bool) (xs ys : List Byte) :
    s.fed tbits (xs ++ ys) =
      ((s.fed tbits xs).1 ++ (s.fed (s.fed tbits xs).2 ys).1, (s.fed (s.fed tbits xs).2 ys).2) := by
  rw [State.fed, List.flatMap_append, feedBits_append]
  rfl

theorem emits_queue (tbuf : List Byte) (tbits : List Bool) (queue : List Byte) (last : Bool) :
    s.Emits ⟨d, ⟨tbuf, tbits⟩, .emit queue last⟩ (s.blockSamples (s.fed tbits queue).1)
      ⟨d, ⟨[], (s.fed tbits queue).2⟩, if last then .pad else .data⟩ := by
  induction queue generalizing tbits with
  | nil => exact emits_of_step fun xs b => rfl
  | cons x queue ih =>
    rw [← List.singleton_append, fed_append, blockSamples_append]
    have hbyte : s.Emits ⟨d, ⟨tbuf, tbits⟩, .emit (x :: queue) last⟩ (s.blockSamples (s.fed tbits [x]).1)
        ⟨d, ⟨tbuf, (s.fed tbits [x]).2⟩, .emit queue last⟩ := emits_of_step fun xs b => by
      rw [← flatMap_emitBlock, State.fed, List.flatMap_singleton]
      rfl
    exact hbyte.trans (ih _)

theorem stepData_eos (hin : s.port.byteIn = []) (heos : s.port.byteInEos = true) :
    s.stepData = some (s.load [] (.emit (chunkBytes s.tx.tbuf ++ [0]) true)) := by
  rw [State.stepData, popByte_nil hin, if_pos heos]

theorem emits_data (heos : s.port.byteInEos = true) (tbuf : List Byte) (tbits : List Bool) :
    s.Emits ⟨d, ⟨tbuf, tbits⟩, .data⟩ (s.blockSamples (s.fed tbits (framedFrom tbuf d)).1)
      ⟨[], ⟨[], (s.fed tbits (framedFrom tbuf d)).2⟩, .pad⟩ := by
  induction d generalizing tbuf tbits with
  | nil =>
    have hend : s.Emits ⟨[], ⟨tbuf, tbits⟩, .data⟩ [] ⟨[], ⟨tbuf, tbits⟩, .emit (chunkBytes tbuf ++ [0]) true⟩ :=
      emits_of_step fun xs b =>
        stepData_eos (s := { s.sendAt xs [] ⟨[], ⟨tbuf, tbits⟩, .data⟩ with burst := b }) rfl heos
    exact hend.trans (emits_queue _ _ _ _)
  | cons x d ih =>
    rw [framedFrom]
    split
    case isTrue hfull =>
      have htake : s.Emits ⟨x :: d, ⟨tbuf, tbits⟩, .data⟩ []
          ⟨d, ⟨tbuf ++ [x], tbits⟩, .emit (chunkBytes (tbuf ++ [x])) false⟩ := emits_of_step fun xs b => if_pos hfull
      rw [fed_append, blockSamples_append]
      exact (htake.trans (emits_queue _ _ _ _)).trans (ih _ _)
    case isFalse hopen =>
      have htake : s.Emits ⟨x :: d, ⟨tbuf, tbits⟩, .data⟩ [] ⟨d, ⟨tbuf ++ [x], tbits⟩, .data⟩ :=
        emits_of_step fun xs b => if_neg hopen
      exact htake.trans (ih _ _)

theorem emits_pad (tbuf : List Byte) (tbits : List Bool) :
    s.Emits ⟨d, ⟨tbuf, tbits⟩, .pad⟩ (s.blockSamples (paddedRest s.blockBits tbits))
      ⟨d, ⟨tbuf, []⟩, .trail s.cfg.silStop.toNat⟩ := by
  unfold paddedRest
  split
  case isTrue hnil => subst hnil; exact emits_of_step fun xs b => rfl
  case isFalse hne =>
    refine emits_of_step fun xs b => ?_
    rw [← flatMap_emitBlock, List.flatMap_singleton]
    exact if_neg hne

theorem emits_trail (n : Nat) : s.Emits ⟨d, tx, .trail n⟩ (silence n) ⟨d, tx, .trail 0⟩ := by
  induction n with
  | zero => exact fun xs _ => by rw [show silence 0 = [] from rfl, List.append_nil]; exact .refl _
  | succ n ih => exact (emits_of_step (ys := [0]) fun xs b => rfl).trans ih

/-! ### The frame -/

theorem frame_eq (s : State) (d : List Byte) :
    s.frame d = silence s.cfg.silStart.toNat ++
      (s.modulate ((List.range' 0 s.nTrain).map s.trainBlock) ++
        (s.blockSamples (s.fed [] (framed d)).1 ++
          (s.blockSamples (paddedRest s.blockBits (s.fed [] (framed d)).2) ++ silence s.cfg.silStop.toNat))) := by
  have hdata : s.modulate (s.dataBlocks d) =
      s.blockSamples (s.fed [] (framed d)).1 ++ s.blockSamples (paddedRest s.blockBits (s.fed [] (framed d)).2) := by
    rw [← blockSamples_append, State.dataBlocks, bitBlocks_eq]
    rfl
  rw [State.frame, hdata, State.preamble, List.range_eq_range']
  simp only [List.append_assoc]

theorem emits_frame (heos : s.port.byteInEos = true) :
    s.Emits ⟨d, tx, .lead s.cfg.silStart.toNat⟩ (s.frame d) ⟨[], .init, .trail 0⟩ := by
  rw [frame_eq]
  exact (emits_lead _).trans ((emits_preamble (Nat.zero_add _)).trans
    ((emits_data heos [] []).trans ((emits_pad [] _).trans (emits_trail _))))

/-- The state in which SEND ends, if SMP_OUT has room for the frame. -/
def State.sent (s : State) : State :=
  { s with
    eng := .idle
    st := s.st.ended .none
    reg := { s.reg with count := s.reg.count + BitVec.ofNat 64 (s.frame s.port.byteIn).length }
    port := { s.port with
      byteIn := []
      byteInEos := false
      smpOut := s.port.smpOut ++ (s.frame s.port.byteIn).flatMap s.sampleUnits }
    tx := .init }

theorem reaches_sent (he : s.eng = .run .send [] (.lead s.cfg.silStart.toNat)) (heos : s.port.byteInEos = true)
    (hroom : s.HasRoomFor (s.frame s.port.byteIn)) : s.Reaches s.sent := by
  have hstart : s.sendAt [] [] ⟨s.port.byteIn, s.tx, .lead s.cfg.silStart.toNat⟩ = s := by
    simp [State.sendAt, ← he]
  have hemit := emits_frame (tx := s.tx) heos [] hroom
  rw [hstart, List.nil_append] at hemit
  have htrail : (s.sendAt (s.frame s.port.byteIn) [] ⟨[], .init, .trail 0⟩).Reaches
      (s.sendAt (s.frame s.port.byteIn) [.clearByteIn, .finish .none] ⟨[], .init, .closing⟩) :=
    reaches_of_step fun b => rfl
  have hclear : (s.sendAt (s.frame s.port.byteIn) [.clearByteIn, .finish .none] ⟨[], .init, .closing⟩).Reaches
      (s.sendAt (s.frame s.port.byteIn) [.finish .none] ⟨[], .init, .closing⟩).clearByteIn :=
    reaches_of_step fun b => rfl
  exact ((hemit.trans htrail).trans hclear).trans (reaches_of_step fun b => rfl)

/-- An idle machine's SEND comes to its end within one turn, from some burst on. -/
theorem exec_send (hidle : s.busy = false) (hcheck : s.checks .send = true) (heos : s.port.byteInEos = true)
    (hroom : s.HasRoomFor (s.frame s.port.byteIn)) :
    ∃ k, ∀ b, k ≤ b → exec .send { s with burst := b } = .next { (s.accept .send).sent with burst := b } := by
  have hissued (b : Nat) : issued .send { s with burst := b } = { begun .send (s.accept .send) with burst := b } :=
    issued_begun (s := { s with burst := b }) (i := .send) hidle hcheck
  exact exec_of_reaches hissued (reaches_sent (s := begun .send (s.accept .send)) rfl heos hroom) rfl

end

/-- Settles O34: SEND's phases emit the parts of the frame one after another, the data phase by induction on the bytes in
BYTE_IN. -/
theorem sendEmitsFrame : Obligations.SendEmitsFrame := by
  unfold Obligations.SendEmitsFrame
  intro s hidle hcheck heos frame hroom
  obtain ⟨k, hexec⟩ := exec_send hidle hcheck heos hroom
  refine ⟨k, fun b hb => (hexec b hb).trans (congrArg _ ?_)⟩
  have heng : s.eng = .idle := (busy_eq_false_iff s).1 hidle
  have hcount : (0 : Word) + BitVec.ofNat 64 frame.length = BitVec.ofNat 64 frame.length := BitVec.zero_add _
  rw [← hcount, heng]
  rfl

end Sys2Proof.Machine
end

section
/-! PROOFS. The chunk parser inverts the framing, and finds the sentinel in the framed stream's last bit alone
(44_frame_rx.md R312 to R314; 43_frame_tx.md R253, R254). -/

namespace Sys2Proof.Machine

/-! ### Bit streams in parts -/

section
variable {r : RxCodec}

theorem feed_of_sentinel (h : r.sentinel = true) (bits : List Bool) : r.feed bits = (r, []) := by
  cases bits with
  | nil => rfl
  | cons c cs => exact if_pos h

theorem feed_cons (h : r.sentinel = false) (c : Bool) (cs : List Bool) :
    r.feed (c :: cs) = (((r.rxBit c).1.feed cs).1, (r.rxBit c).2.toList ++ ((r.rxBit c).1.feed cs).2) := by
  rw [RxCodec.feed, if_neg (by simp [h])]

/-- The parser goes on from the codec it left. -/
theorem feed_append (r : RxCodec) (xs ys : List Bool) :
    r.feed (xs ++ ys) = (((r.feed xs).1.feed ys).1, (r.feed xs).2 ++ ((r.feed xs).1.feed ys).2) := by
  induction xs generalizing r with
  | nil => rfl
  | cons c cs ih =>
    cases hs : r.sentinel with
    | true => simp [feed_of_sentinel hs]
    | false => rw [List.cons_append, feed_cons hs, feed_cons hs, ih]; simp

/-- A sentinel that a stream does not set, no front part of it sets. -/
theorem feed_sentinel_of_append {xs ys : List Bool} (h : (r.feed (xs ++ ys)).1.sentinel = false) :
    (r.feed xs).1.sentinel = false := by
  by_contra hs
  rw [feed_append, feed_of_sentinel (Bool.of_not_eq_false hs)] at h
  exact hs h

/-- Bits that do not fill a byte wait (44_frame_rx.md R313). -/
theorem feed_open {bits : List Bool} (hs : r.sentinel = false) (hlen : r.rbits.length + bits.length < 8) :
    r.feed bits = ({ r with rbits := r.rbits ++ bits }, []) := by
  induction bits generalizing r with
  | nil => rw [List.append_nil]; rfl
  | cons c cs ih =>
    rw [List.length_cons] at hlen
    have hwait : r.rxBit c = ({ r with rbits := r.rbits ++ [c] }, none) :=
      if_neg (by rw [List.length_append, List.length_singleton]; omega)
    have hrest := ih (r := { r with rbits := r.rbits ++ [c] }) hs
      (by rw [List.length_append, List.length_singleton]; omega)
    rw [feed_cons hs, hwait, List.append_cons r.rbits c cs]
    dsimp only
    rw [hrest]
    rfl

/-- The bits of a byte, none waiting before them, parse the byte (44_frame_rx.md R313, R314). -/
theorem feed_bitsOfByte (hs : r.sentinel = false) (hr : r.rbits = []) (b : Byte) :
    r.feed (bitsOfByte b) = ((r.parseByte b).1, (r.parseByte b).2.toList) := by
  obtain ⟨xs, c, hbits⟩ : ∃ xs c, bitsOfByte b = xs ++ [c] :=
    ⟨_, _, (List.dropLast_append_getLast (List.ne_nil_of_length_pos (by rw [length_bitsOfByte]; omega))).symm⟩
  have hlen : xs.length = 7 := by
    have := length_bitsOfByte b
    rw [hbits, List.length_append, List.length_singleton] at this
    omega
  have hlast : RxCodec.rxBit { r with rbits := xs } c = RxCodec.parseByte { r with rbits := [] } (byteOfBits (xs ++ [c])) :=
    if_pos (by rw [List.length_append, hlen]; rfl)
  have hnone : { r with rbits := [] } = r := by rw [← hr]
  rw [hnone, ← hbits, byteOfBits_bitsOfByte] at hlast
  rw [hbits, feed_append, feed_open hs (by rw [hr, hlen]; decide), hr, List.nil_append]
  dsimp only
  rw [feed_cons (r := { r with rbits := xs }) hs, hlast]
  exact congrArg _ (List.append_nil _)

theorem parseByte_zero (h : r.hdr = true) : r.parseByte 0 = ({ r with sentinel := true }, none) := by
  rw [RxCodec.parseByte, if_pos h, if_pos rfl]

theorem parseByte_header {v : Byte} (h : r.hdr = true) (hv : v ≠ 0) :
    r.parseByte v = ({ r with remaining := v.toNat, hdr := false }, none) := by
  rw [RxCodec.parseByte, if_pos h, if_neg hv]

theorem parseByte_payload (h : r.hdr = false) (v : Byte) :
    r.parseByte v = ({ r with remaining := r.remaining - 1, hdr := decide (r.remaining - 1 = 0) }, some v) := by
  rw [RxCodec.parseByte, if_neg (by simp [h])]

end

/-! ### Chunks -/

/-- The bytes of a chunk after its length byte are delivered, and the next byte is a header (44_frame_rx.md R314). -/
theorem feed_payload {c : List Byte} (hne : c ≠ []) :
    RxCodec.feed { RxCodec.init with hdr := false, remaining := c.length } (c.flatMap bitsOfByte) = (.init, c) := by
  induction c with
  | nil => exact absurd rfl hne
  | cons b rest ih =>
    rw [List.flatMap_cons, feed_append, feed_bitsOfByte rfl rfl, parseByte_payload rfl]
    cases rest with
    | nil => rfl
    | cons b' rest => exact congrArg (fun q => (q.1, b :: q.2)) (ih (List.cons_ne_nil b' rest))

theorem feed_chunkBytes {c : List Byte} (hlen : c.length ≤ Config.chunkMax) :
    RxCodec.feed .init ((chunkBytes c).flatMap bitsOfByte) = (.init, c) := by
  unfold chunkBytes
  split
  case isTrue hnil => rw [hnil]; rfl
  case isFalse hne =>
    have hpos : 0 < c.length := List.length_pos_of_ne_nil hne
    have hval : (BitVec.ofNat 8 c.length).toNat = c.length := by
      rw [BitVec.toNat_ofNat, Nat.mod_eq_of_lt (show c.length < 256 from Nat.lt_succ_of_le hlen)]
    have hval' : BitVec.ofNat 8 c.length ≠ 0 := by
      rw [ne_eq, ← BitVec.toNat_inj, hval]
      exact hpos.ne'
    rw [List.flatMap_cons, feed_append, feed_bitsOfByte rfl rfl, parseByte_header rfl hval', hval]
    exact congrArg (fun q => (q.1, [] ++ q.2)) (feed_payload hne)

/-! ### The framed stream -/

/-- The framed bytes are chunks, which deliver the payload, and the sentinel (43_frame_tx.md R254). -/
theorem framedFrom_eq {cur : List Byte} (hcur : cur.length < Config.chunkMax) (d : List Byte) :
    ∃ chunks, framedFrom cur d = chunks ++ [0] ∧ RxCodec.feed .init (chunks.flatMap bitsOfByte) = (.init, cur ++ d) := by
  fun_induction framedFrom cur d with
  | case1 cur => exact ⟨_, rfl, by rw [feed_chunkBytes hcur.le, List.append_nil]⟩
  | case2 cur b rest hfull ih =>
    obtain ⟨chunks, hframed, hfeed⟩ := ih (Nat.zero_lt_succ _)
    refine ⟨_, by rw [hframed, ← List.append_assoc], ?_⟩
    rw [List.flatMap_append, feed_append, feed_chunkBytes hfull.le]
    dsimp only
    rw [hfeed, List.nil_append, List.append_cons cur b rest]
  | case3 cur b rest hopen ih =>
    rw [List.append_cons cur b rest]
    exact ih (by rw [List.length_append, List.length_singleton] at hopen ⊢; omega)

/-- The bits of Framed(D): those that deliver D, then the sentinel's eight. -/
theorem framed_bits_eq (d : List Byte) :
    ∃ bits, (framed d).flatMap bitsOfByte = bits ++ bitsOfByte 0 ∧ RxCodec.feed .init bits = (.init, d) := by
  obtain ⟨chunks, hframed, hfeed⟩ := framedFrom_eq (cur := []) (Nat.zero_lt_succ _) d
  exact ⟨_, by rw [framed, hframed, List.flatMap_append, List.flatMap_singleton], hfeed⟩

theorem feed_framed (d : List Byte) (pad : List Bool) :
    RxCodec.feed .init ((framed d).flatMap bitsOfByte ++ pad) = ({ RxCodec.init with sentinel := true }, d) := by
  obtain ⟨bits, hbits, hfeed⟩ := framed_bits_eq d
  have hsentinel : RxCodec.feed .init (bitsOfByte 0) = ({ RxCodec.init with sentinel := true }, []) :=
    by rw [feed_bitsOfByte rfl rfl, parseByte_zero rfl]; rfl
  rw [hbits, feed_append, feed_append, hfeed]
  dsimp only
  rw [hsentinel, feed_of_sentinel rfl, List.append_nil, List.append_nil]

/-- Before the last bit of Framed(D) the sentinel is not decoded. -/
theorem feed_framed_front (d : List Byte) {xs ys : List Bool} (hys : ys ≠ [])
    (h : (framed d).flatMap bitsOfByte = xs ++ ys) : (RxCodec.feed .init xs).1.sentinel = false := by
  obtain ⟨bits, hbits, hfeed⟩ := framed_bits_eq d
  have hwait : (RxCodec.feed .init (bits ++ List.replicate 7 false)).1.sentinel = false := by
    rw [feed_append, hfeed]
    dsimp only
    rw [feed_open rfl (by decide)]
    rfl
  have hdrop : xs ++ ys.dropLast = bits ++ List.replicate 7 false := by
    rw [← List.dropLast_append_of_ne_nil hys, ← h, hbits, List.dropLast_append_of_ne_nil (by decide)]
    rfl
  exact feed_sentinel_of_append (hdrop ▸ hwait)

/-- Settles O36: chunk by chunk the parser delivers the payload, and the byte 0 where a header is due is the sentinel. -/
theorem parserInvertsFraming : Obligations.ParserInvertsFraming := by
  unfold Obligations.ParserInvertsFraming
  exact feed_framed

end Sys2Proof.Machine
end

section
/-! PROOFS. CALIBRATING: the gains, the initial clock estimate, and the step that stores them (44_frame_rx.md R305 to
R308). -/

namespace Sys2Proof

/-- |z|² as the sum of two squares. -/
def Cx.square (z : Cx) : Scalar := z.re * z.re + z.im * z.im

theorem Cx.square_nonneg (z : Cx) : 0 ≤ z.square := add_nonneg (mul_self_nonneg _) (mul_self_nonneg _)

theorem Cx.square_pos {z : Cx} (hz : z ≠ Cx.zero) : 0 < z.square := by
  refine z.square_nonneg.lt_of_ne' fun h => hz ?_
  obtain ⟨hre, him⟩ := mul_self_add_mul_self_eq_zero.1 h
  exact Cx.ext hre him

end Sys2Proof

namespace Sys2Proof.Machine

/-! ### The gains -/

section
variable {s : State} {rs : List (List Cx)} {k : Nat}

/-- The gain in plain arithmetic, where something was received (44_frame_rx.md R306). -/
theorem trainGain_eq (hnum : s.num.Exact) (hden : 0 < ∑ t ∈ Finset.range s.nTrain, (cxAt rs t k).square) :
    s.trainGain rs k =
      ⟨(∑ t ∈ Finset.range s.nTrain,
          ((s.trainSymbol t k).re * (cxAt rs t k).re + (s.trainSymbol t k).im * (cxAt rs t k).im)) /
          ∑ t ∈ Finset.range s.nTrain, (cxAt rs t k).square,
        (∑ t ∈ Finset.range s.nTrain,
          ((s.trainSymbol t k).im * (cxAt rs t k).re - (s.trainSymbol t k).re * (cxAt rs t k).im)) /
          ∑ t ∈ Finset.range s.nTrain, (cxAt rs t k).square⟩ := by
  have hsum : s.num.sum ((List.range s.nTrain).map fun t => s.num.normSq (cxAt rs t k)) =
      ∑ t ∈ Finset.range s.nTrain, (cxAt rs t k).square := by
    simp only [hnum.sum_eq, hnum.normSq_eq, sum_map_range]
    rfl
  rw [State.trainGain, hsum, if_pos hden, hnum.cxDiv_eq, hnum.cxSum_eq]
  simp only [hnum.cxMul_eq, List.map_map, Function.comp_def, sum_map_range, Cx.conj, mul_neg, sub_neg_eq_add,
    neg_add_eq_sub]

/-- The gain of blocks received with a common factor `a` is conj(a) / |a|² (44_frame_rx.md R306). -/
theorem trainGain_of_factor (hnum : s.num.Exact) {a : Cx} (ha : a ≠ Cx.zero)
    (hr : ∀ t < s.nTrain, cxAt rs t k = s.num.cxMul a (s.trainSymbol t k))
    (hT : ∃ t < s.nTrain, s.trainSymbol t k ≠ Cx.zero) :
    s.trainGain rs k = ⟨a.re / a.square, -a.im / a.square⟩ := by
  have hr (t : Nat) (ht : t ∈ Finset.range s.nTrain) := (hr t (Finset.mem_range.1 ht)).trans (hnum.cxMul_eq _ _)
  obtain ⟨t₀, ht₀, hne⟩ := hT
  have henergy : 0 < ∑ t ∈ Finset.range s.nTrain, (s.trainSymbol t k).square :=
    Finset.sum_pos' (fun t _ => Cx.square_nonneg _) ⟨t₀, Finset.mem_range.2 ht₀, Cx.square_pos hne⟩
  have hden : ∑ t ∈ Finset.range s.nTrain, (cxAt rs t k).square =
      a.square * ∑ t ∈ Finset.range s.nTrain, (s.trainSymbol t k).square := by
    rw [Finset.mul_sum]
    refine Finset.sum_congr rfl fun t ht => ?_
    rw [hr t ht, Cx.square, Cx.square, Cx.square]
    ring
  have hre : ∑ t ∈ Finset.range s.nTrain,
      ((s.trainSymbol t k).re * (cxAt rs t k).re + (s.trainSymbol t k).im * (cxAt rs t k).im) =
      a.re * ∑ t ∈ Finset.range s.nTrain, (s.trainSymbol t k).square := by
    rw [Finset.mul_sum]
    refine Finset.sum_congr rfl fun t ht => ?_
    rw [hr t ht, Cx.square]
    ring
  have him : ∑ t ∈ Finset.range s.nTrain,
      ((s.trainSymbol t k).im * (cxAt rs t k).re - (s.trainSymbol t k).re * (cxAt rs t k).im) =
      -a.im * ∑ t ∈ Finset.range s.nTrain, (s.trainSymbol t k).square := by
    rw [Finset.mul_sum]
    refine Finset.sum_congr rfl fun t ht => ?_
    rw [hr t ht, Cx.square]
    ring
  rw [trainGain_eq hnum (by rw [hden]; exact mul_pos (Cx.square_pos ha) henergy), hden, hre, him,
    mul_div_mul_right _ _ henergy.ne', mul_div_mul_right _ _ henergy.ne']

/-- Settles O40: the gain of a common factor a is conj(a) / |a|², its inverse. -/
theorem gainExact : Obligations.GainExact := by
  unfold Obligations.GainExact
  intro s rs k a hnum ha hr hT
  have hsquare : a.square ≠ 0 := (Cx.square_pos ha).ne'
  rw [trainGain_of_factor hnum ha hr hT, hnum.cxMul_eq]
  refine Cx.ext ?_ ?_
  · show a.re / a.square * a.re - -a.im / a.square * a.im = 1
    rw [div_mul_eq_mul_div, div_mul_eq_mul_div, ← sub_div, div_eq_one_iff_eq hsquare, Cx.square]
    ring
  · show a.re / a.square * a.im + -a.im / a.square * a.re = 0
    ring

end

/-! ### The initial clock estimate -/

section
variable {s : State} {rs : List (List Cx)} (hnum : s.num.Exact)
include hnum

theorem unwrapped_succ (t : Nat) :
    s.unwrapped rs (t + 1) = s.unwrapped rs t + s.num.wrapTurn (s.trainError rs (t + 1) - s.trainError rs t) := by
  rw [State.unwrapped, hnum.add, hnum.sub]

/-- `wrap` answers δ for every angle that differs from it by an integer, |δ| < 1/2 (00_scope.md R12). -/
theorem wrapTurn_add_intCast {δ : Scalar} (hδ : |δ| < 1 / 2) (m : Int) : s.num.wrapTurn (δ + (m : Scalar)) = δ := by
  obtain ⟨hlow, hup⟩ := abs_lt.1 hδ
  have hceil : (δ + (m : Scalar) - 1 / 2).ceil = m :=
    le_antisymm (Rat.ceil_le_iff.2 (by linarith)) (Int.sub_one_lt_iff.1 (Rat.lt_ceil_iff.2 (by push_cast; linarith)))
  rw [hnum.wrapTurn_eq, hceil, add_sub_cancel_right]

/-- Errors that step by δ, modulo a turn, unwrap to a line (44_frame_rx.md R307). -/
theorem unwrapped_of_linear {δ : Scalar} (hδ : |δ| < 1 / 2)
    (h : ∀ t < s.nTrain, ∃ m : Int, s.trainError rs t = s.trainError rs 0 + (t : Scalar) * δ + (m : Scalar)) {t : Nat}
    (ht : t < s.nTrain) : s.unwrapped rs t = s.trainError rs 0 + (t : Scalar) * δ := by
  induction t with
  | zero => rw [Nat.cast_zero, zero_mul, add_zero]; rfl
  | succ t ih =>
    obtain ⟨m, hm⟩ := h t (by omega)
    obtain ⟨m', hm'⟩ := h (t + 1) ht
    have hstep : s.trainError rs (t + 1) - s.trainError rs t = δ + ((m' - m : Int) : Scalar) := by
      rw [hm', hm]
      push_cast
      ring
    rw [unwrapped_succ hnum, ih (by omega), hstep, wrapTurn_add_intCast hnum hδ]
    push_cast
    ring

/-- The training blocks' numbers spread about their mean where there are two or more. -/
theorem spread_pos (hL : 2 ≤ s.nTrain) :
    0 < ∑ t ∈ Finset.range s.nTrain, ((t : Scalar) - s.midTraining) * ((t : Scalar) - s.midTraining) := by
  have hmid : (0 : Scalar) < s.midTraining := by
    have : (2 : Scalar) ≤ s.nTrain := mod_cast hL
    rw [midTraining_eq hnum]
    linarith
  refine Finset.sum_pos' (fun t _ => mul_self_nonneg _) ⟨0, Finset.mem_range.2 (by omega), ?_⟩
  rw [Nat.cast_zero, zero_sub, neg_mul_neg]
  exact mul_pos hmid hmid

theorem timingOffset_eq (e : Scalar) : s.timingOffset e = e * s.nSym / s.bin s.pilot := by
  rw [State.timingOffset, hnum.div, hnum.mul]

/-- Pilot phases on a line of slope δ give the drift δ·N/b_p (44_frame_rx.md R307). -/
theorem drift_of_linear {δ e₀ : Scalar} (hL : 2 ≤ s.nTrain)
    (h : ∀ t < s.nTrain, s.unwrapped rs t = e₀ + (t : Scalar) * δ) : s.drift rs = s.timingOffset δ := by
  have hoffset (t : Nat) (ht : t ∈ Finset.range s.nTrain) :
      s.timingOffset (s.unwrapped rs t) = s.timingOffset e₀ + (t : Scalar) * s.timingOffset δ := by
    rw [h t (Finset.mem_range.1 ht)]
    simp only [timingOffset_eq hnum]
    ring
  have hcenter : ∑ t ∈ Finset.range s.nTrain, ((t : Scalar) - s.midTraining) = 0 := by
    rw [midTraining_eq hnum]
    exact sum_range_sub_mid s.nTrain
  have hcov (c : Scalar) : ∑ t ∈ Finset.range s.nTrain, ((t : Scalar) - s.midTraining) *
      (s.timingOffset (s.unwrapped rs t) - c) =
      s.timingOffset δ * ∑ t ∈ Finset.range s.nTrain, ((t : Scalar) - s.midTraining) * ((t : Scalar) - s.midTraining) := by
    have hterm : ∀ t ∈ Finset.range s.nTrain, ((t : Scalar) - s.midTraining) * (s.timingOffset (s.unwrapped rs t) - c) =
        s.timingOffset δ * (((t : Scalar) - s.midTraining) * ((t : Scalar) - s.midTraining)) +
          (s.timingOffset e₀ + s.midTraining * s.timingOffset δ - c) * ((t : Scalar) - s.midTraining) := fun t ht => by
      rw [hoffset t ht]
      ring
    rw [Finset.sum_congr rfl hterm, Finset.sum_add_distrib, ← Finset.mul_sum, ← Finset.mul_sum, hcenter, mul_zero, add_zero]
  rw [drift_eq hnum rs hL, hcov, mul_div_assoc, div_self (spread_pos hnum hL).ne', mul_one]

end

theorem trainError_of_zero {s : State} {rs : List (List Cx)} {t : Nat}
    (h : cxAt rs t s.pilot = Cx.zero ∨ s.trainSymbol t s.pilot = Cx.zero) : s.trainError rs t = 0 := if_pos h

theorem trainError_eq_argTurn {s : State} {rs : List (List Cx)} {t : Nat} (hr : cxAt rs t s.pilot ≠ Cx.zero)
    (hT : s.trainSymbol t s.pilot ≠ Cx.zero) :
    s.trainError rs t = s.num.argTurn (s.num.cxMul (cxAt rs t s.pilot) (s.trainSymbol t s.pilot).conj) :=
  if_neg (not_or.2 ⟨hr, hT⟩)

/-- Settles O41: `wrap` moves an angle by an integer into half a turn, the slope of phases that move by at most half a turn
a block is at most half a period of the pilot, and phases on a line have the line's slope. -/
theorem driftEstimateAndBounds : Obligations.DriftEstimateAndBounds := by
  unfold Obligations.DriftEstimateAndBounds
  intro s rs hnum hcarrier hdemod htrain n b ts mid e psi tau mean
  have hchecks := trackingChecks_of_checks hcarrier hdemod
  have htau (t : Nat) : s.timingOffset (s.unwrapped rs t) = tau t := timingOffset_eq hnum _
  have hmid : s.midTraining = mid := midTraining_eq hnum
  have hbound : |s.drift rs| ≤ n / 2 := by
    refine (abs_drift_le hnum hchecks rs).trans (div_le_div_of_nonneg_left hchecks.nSym_pos.le two_pos ?_)
    linarith [hchecks.bin]
  have hdrift (hL : 2 ≤ s.nTrain) : s.drift rs =
      (ts.map fun t : Nat => ((t : Scalar) - mid) * (tau t - mean)).sum /
        (ts.map fun t : Nat => ((t : Scalar) - mid) * ((t : Scalar) - mid)).sum := by
    rw [drift_eq hnum rs hL, hmid]
    simp only [htau]
    rfl
  refine ⟨fun t => ⟨trainError_of_zero, trainError_eq_argTurn⟩, rfl, fun t => ?_, fun hL => if_neg (by omega), fun hL => ?_,
    fun δ hδ hline => ?_, hbound, initialRatio_pos hnum hchecks rs, by rw [State.initialRatio, hnum.div, hnum.add]⟩
  · have hstep : psi (t + 1) - psi t = s.num.wrapTurn (e (t + 1) - e t) := by
      rw [sub_eq_iff_eq_add']
      exact unwrapped_succ hnum t
    rw [hstep]
    exact ⟨_, hnum.wrapTurn_eq _, wrapTurn_range hnum _⟩
  · have hspread := spread_pos hnum hL
    rw [hmid] at hspread
    rw [hdrift hL]
    exact div_mul_cancel₀ _ hspread.ne'
  · have hpsi (t : Nat) (ht : t < s.nTrain) : psi t = e 0 + (t : Scalar) * δ := unwrapped_of_linear hnum hδ hline ht
    exact ⟨hpsi, fun hL => (drift_of_linear hnum hL hpsi).trans (timingOffset_eq hnum δ)⟩

/-! ### The step -/

section
variable {c : Cal} {k j i : Nat} {gains : List Cx} {g : Cx}

/-- The CAL table with one gain written. -/
def Cal.stored (c : Cal) (k : Nat) (g : Cx) : Cal :=
  { re := Table.put f64One c.re k (bits64 g.re), im := Table.put 0 c.im k (bits64 g.im) }

/-- The gains are written from entry `k` on; the entries before and after them stay. -/
theorem get_storeGains_outside (hre : Table.wf f64One c.re = true) (him : Table.wf 0 c.im = true)
    (h : j < k ∨ k + gains.length ≤ j) :
    Table.get f64One (c.storeGains k gains).re j = Table.get f64One c.re j ∧
    Table.get 0 (c.storeGains k gains).im j = Table.get 0 c.im j := by
  induction gains generalizing c k with
  | nil => exact ⟨rfl, rfl⟩
  | cons g gs ih =>
    rw [List.length_cons] at h
    obtain ⟨hgre, hgim⟩ := ih (c := c.stored k g) (k := k + 1) (Table.wf_put k _ hre) (Table.wf_put k _ him) (by omega)
    have hj : j ≠ k := by omega
    rw [Cal.stored, Table.get_put _ _ hre, if_neg hj] at hgre
    rw [Cal.stored, Table.get_put _ _ him, if_neg hj] at hgim
    exact ⟨hgre, hgim⟩

theorem get_storeGains (hre : Table.wf f64One c.re = true) (him : Table.wf 0 c.im = true) (hg : gains[i]? = some g) :
    Table.get f64One (c.storeGains k gains).re (k + i) = bits64 g.re ∧
    Table.get 0 (c.storeGains k gains).im (k + i) = bits64 g.im := by
  induction gains generalizing c k i with
  | nil => simp at hg
  | cons g' gs ih =>
    have hre' : Table.wf f64One (c.stored k g').re = true := Table.wf_put k _ hre
    have him' : Table.wf 0 (c.stored k g').im = true := Table.wf_put k _ him
    cases i with
    | zero =>
      obtain rfl : g' = g := by simpa using hg
      obtain ⟨hgre, hgim⟩ := get_storeGains_outside (gains := gs) (k := k + 1) (j := k) hre' him' (by omega)
      rw [Cal.stored, Table.get_put _ _ hre, if_pos rfl] at hgre
      rw [Cal.stored, Table.get_put _ _ him, if_pos rfl] at hgim
      exact ⟨hgre, hgim⟩
    | succ i =>
      rw [show k + (i + 1) = k + 1 + i by omega]
      exact ih hre' him' (by simpa using hg)

end

section
variable {s : State}

/-- The projected training blocks of the detected preamble (44_frame_rx.md R305). -/
def State.received (s : State) : List (List Cx) := (List.range s.nTrain).map s.rxTraining

/-- The gains of carriers 0 to K − 1 (44_frame_rx.md R306). -/
def State.trainGains (s : State) : List Cx := (List.range s.nCar).map (s.trainGain s.received)

/-- The state CALIBRATING leaves (44_frame_rx.md R306, R308, R324). -/
def State.calibratedTo (s : State) : State :=
  { s with
    eng := .run .recv [] (.receive [])
    st := { s.st with rx := .receiving }
    rs := { s.rs with pos := s.dataStart (s.initialRatio s.received), ratio := s.initialRatio s.received }
    reg := { s.reg with
      rsPos := bits64 (s.dataStart (s.initialRatio s.received))
      rsRatio := bits64 (s.initialRatio s.received)
      clkFreq := bits64 (s.num.sub (s.initialRatio s.received) 1)
      clkPhase := bits64 0 }
    rx := { s.rx with gains := s.trainGains }
    cal := s.cal.storeGains 0 s.trainGains }

theorem engineStep_calibrate (he : s.eng = .run .recv [] .calibrate) : s.engineStep = some s.calibratedTo := by
  rw [engineStep_phase he, State.stepPhase, State.stepCalibrate]
  simp only [State.load, State.setRx, State.setPhase, State.setRatio, State.setPos, he]
  rfl

/-- The position of data block 0 at ratio 1: one preamble after the detected offset (44_frame_rx.md R308). -/
theorem dataStart_one (hnum : s.num.Exact) : s.dataStart 1 = ((s.rx.dbest + s.nPre : Nat) : Scalar) := by
  simp only [State.dataStart, State.nPre, midTraining_eq hnum, hnum.add, hnum.sub, hnum.mul]
  push_cast
  ring

end

/-- Settles O42: the step is the gains' writes, entry by entry, and the clock's. -/
theorem calibrateSetsClock : Obligations.CalibrateSetsClock := by
  unfold Obligations.CalibrateSetsClock
  intro s he htables rs r0 n mid pos
  have hlen : s.trainGains.length = s.nCar := by rw [State.trainGains, List.length_map, List.length_range]
  refine ⟨s.calibratedTo, engineStep_calibrate he, rfl, fun k hk => ?_, fun k hk => ?_, fun hnum hr0 => ?_⟩
  · have hstored := get_storeGains (k := 0) (i := k) (gains := s.trainGains) (g := s.trainGain s.received k)
      htables.calRe htables.calIm (by simp [State.trainGains, hk])
    rwa [Nat.zero_add] at hstored
  · exact get_storeGains_outside htables.calRe htables.calIm (.inr (by rw [hlen, Nat.zero_add]; exact hk))
  · refine Eq.trans ?_ (dataStart_one hnum)
    rw [← hr0]
    rfl

/-- Settles O37: a turn whose share is 0 ends with the acceptance and the start. -/
theorem recvAcceptance : Obligations.RecvAcceptance := by
  unfold Obligations.RecvAcceptance
  intro s hidle hcheck hburst
  have hdrive : (begun .recv (s.accept .recv)).drive = begun .recv (s.accept .recv) :=
    congrArg (State.runEngine · _) hburst
  rw [exec_eq, issued_begun hidle hcheck, hdrive]
  rfl

end Sys2Proof.Machine
end

section
/-! PROOFS. What RECV reaches, however far a turn takes it, and what becomes of the units of SMP_IN: a front part of them is
taken, counted and mirrored to DUMP (44_frame_rx.md R280, R306, R315, R325, R326, R333). -/

namespace Sys2Proof.Machine

section
variable {s t u v : State} {c : Instr} {ph : Phase} {a : Act}

/-! ### Units taken -/

/-- From `s` to `t` RECV took a front part of SMP_IN, counted it and, with DUMP_EN = 1, mirrored it; what it left is in
SMP_IN, or was cleared with it (44_frame_rx.md R323, R325). -/
def State.TakesFront (s t : State) : Prop :=
  ∃ us rest, s.port.smpIn = us ++ rest ∧ t.reg.rxConsumed = s.reg.rxConsumed + BitVec.ofNat 64 us.length ∧
    t.port.dump = (if s.dumpEn then s.port.dump ++ us else s.port.dump) ∧ (t.port.smpIn = rest ∨ t.port.smpIn = [])

theorem takesFront_of_none (hreg : t.reg.rxConsumed = s.reg.rxConsumed) (hdump : t.port.dump = s.port.dump)
    (hin : t.port.smpIn = s.port.smpIn ∨ t.port.smpIn = []) : s.TakesFront t :=
  ⟨[], _, rfl, by simp [hreg], by simp [hdump], hin⟩

theorem State.TakesFront.trans (h : s.TakesFront t) (hen : t.dumpEn = s.dumpEn) (k : t.TakesFront u) :
    s.TakesFront u := by
  obtain ⟨us, rest, hin, hreg, hdump, hleft⟩ := h
  obtain ⟨us', rest', hin', hreg', hdump', hleft'⟩ := k
  rw [hreg, BitVec.add_assoc, ← BitVec.ofNat_add, ← List.length_append] at hreg'
  rw [hdump, hen] at hdump'
  obtain rfl | hnil := hleft
  · refine ⟨us ++ us', rest', by rw [hin, hin', List.append_assoc], hreg', hdump'.trans ?_, hleft'⟩
    split <;> simp
  · obtain ⟨rfl, rfl⟩ := List.append_eq_nil_iff.1 (hin'.symm.trans hnil)
    rw [List.append_nil] at hreg'
    exact ⟨us, rest, hin, hreg', hdump'.trans (by split <;> simp), .inr (hleft'.elim id id)⟩

theorem State.TakesFront.dump (h : s.TakesFront t) : s.port.dump <+: t.port.dump := by
  obtain ⟨us, rest, -, -, hdump, -⟩ := h
  rw [hdump]
  split
  · exact List.prefix_append ..
  · exact List.prefix_rfl

theorem State.TakesFront.smpIn (h : s.TakesFront t) : t.port.smpIn <:+ s.port.smpIn := by
  obtain ⟨us, rest, hin, -, -, hleft | hleft⟩ := h
  · rw [hin, hleft]; exact List.suffix_append ..
  · rw [hleft]; exact List.nil_suffix

/-! ### What RECV reaches -/

/-- What RECV reaches from `s` to `t`, acceptance excepted. -/
structure RecvFrame (s t : State) : Prop where
  frame : t = { s with
    eng := t.eng
    st := { s.st with done := t.st.done, result := t.st.result, cause := t.st.cause, rx := t.st.rx }
    reg := t.reg
    cal := t.cal
    port := { s.port with
      smpIn := t.port.smpIn, smpInEos := t.port.smpInEos, byteOut := t.port.byteOut, dump := t.port.dump }
    pcmLo := t.pcmLo
    rs := t.rs
    rx := t.rx }
  byteOut : s.port.byteOut <+: t.port.byteOut
  tables : s.TablesCanonical → t.TablesCanonical
  cal : s.TablesCanonical → ∀ k, s.nCar ≤ k →
    t.regValue (.calRe k) = s.regValue (.calRe k) ∧ t.regValue (.calIm k) = s.regValue (.calIm k)
  taken : s.TakesFront t

theorem RecvFrame.cfg (h : RecvFrame s t) : t.cfg = s.cfg := by rw [h.frame]

theorem RecvFrame.trans (h : RecvFrame s t) (k : RecvFrame t u) : RecvFrame s u where
  frame := k.frame.trans (by rw [h.frame])
  byteOut := h.byteOut.trans k.byteOut
  tables hs := k.tables (h.tables hs)
  cal hs i hi := by
    obtain ⟨hre, him⟩ := h.cal hs i hi
    obtain ⟨hre', him'⟩ := k.cal (h.tables hs) i (by rwa [State.nCar, h.cfg])
    exact ⟨hre'.trans hre, him'.trans him⟩
  taken := h.taken.trans (by rw [State.dumpEn, h.cfg]; rfl) k.taken

/-- A step that leaves configuration and CAL reaches what its frame says. -/
theorem recvFrame_of_cal (hframe : t = { s with
      eng := t.eng
      st := { s.st with done := t.st.done, result := t.st.result, cause := t.st.cause, rx := t.st.rx }
      reg := t.reg
      port := { s.port with
        smpIn := t.port.smpIn, smpInEos := t.port.smpInEos, byteOut := t.port.byteOut, dump := t.port.dump }
      pcmLo := t.pcmLo
      rs := t.rs
      rx := t.rx })
    (hout : s.port.byteOut <+: t.port.byteOut) (htaken : s.TakesFront t) : RecvFrame s t where
  frame := by rw [hframe]
  byteOut := hout
  tables := tablesCanonical_congr (by rw [hframe]) (by rw [hframe])
  cal _ _ _ := by rw [hframe]; exact ⟨rfl, rfl⟩
  taken := htaken

/-- A step that touches no port and leaves RX_CONSUMED. -/
theorem recvFrame_of_quiet (hframe : t = { s with
      eng := t.eng
      st := { s.st with done := t.st.done, result := t.st.result, cause := t.st.cause, rx := t.st.rx }
      reg := { t.reg with rxConsumed := s.reg.rxConsumed }
      rs := t.rs
      rx := t.rx }) : RecvFrame s t :=
  recvFrame_of_cal (by rw [hframe]) (by rw [hframe])
    (takesFront_of_none (by rw [hframe]) (by rw [hframe]) (.inl (by rw [hframe])))

theorem RecvFrame.refl (s : State) : RecvFrame s s := recvFrame_of_quiet rfl

theorem recvFrame_load (s : State) (todo : List Act) (q : Phase) : RecvFrame s (s.load todo q) :=
  recvFrame_of_quiet (by rw [load_frame])

/-! ### The steps -/

theorem recvFrame_popSample {x : Option Scalar} (h : s.popSample true = .got x t) : RecvFrame s t := by
  obtain ⟨y, v, hpop, hx⟩ := popSample_got h
  obtain ⟨hin, hdump, -, hv⟩ := popSmp_recv_got hpop
  have htaken : s.TakesFront v := ⟨[y], _, hin, by rw [hv]; rfl, hdump, .inl rfl⟩
  have hframe : RecvFrame s v := recvFrame_of_cal (by rw [hv]) (by rw [hv]) htaken
  have hpending (lo : Option Byte) : RecvFrame v { v with pcmLo := lo } :=
    recvFrame_of_cal rfl List.prefix_rfl (takesFront_of_none rfl rfl (.inl rfl))
  obtain ⟨-, -, rfl⟩ | ⟨-, -, -, rfl⟩ | ⟨-, lo, -, -, rfl⟩ := hx
  · exact hframe
  · exact hframe.trans (hpending _)
  · exact hframe.trans (hpending _)

theorem recvFrame_fetch {i : Int} (h : s.fetch true i = .progress t) : RecvFrame s t := by
  obtain ⟨-, hpop | ⟨x, v, hpop, rfl⟩⟩ := fetch_progress h
  · exact recvFrame_popSample hpop
  · exact (recvFrame_popSample hpop).trans (recvFrame_of_quiet rfl)

theorem recvFrame_calibrate (s : State) : RecvFrame s s.calibratedTo where
  frame := rfl
  byteOut := List.prefix_rfl
  tables hs := by
    obtain ⟨hre, him⟩ := wf_storeGains hs.calRe hs.calIm 0 s.trainGains
    exact { hs with calRe := hre, calIm := him }
  cal hs k hk := get_storeGains_outside hs.calRe hs.calIm (.inr (by simpa [State.trainGains] using hk))
  taken := takesFront_of_none rfl rfl (.inl rfl)

/-- RECV's rule takes units, moves its own state, or calibrates. -/
theorem recvFrame_stepPhase (he : s.eng = .run .recv [] ph) (hp : recvPlace s.st.rx [] ph) (h : s.stepPhase ph = some t) :
    RecvFrame s t := by
  have hquiet {v : State} (hv : v = { s with
      st := { s.st with rx := v.st.rx }
      reg := { v.reg with rxConsumed := s.reg.rxConsumed }
      rs := v.rs
      rx := v.rx }) : RecvFrame s v := recvFrame_of_quiet (by rw [hv])
  have hload (todo : List Act) (q : Phase) : RecvFrame s (s.load todo q) := recvFrame_load s todo q
  have hgo {v : State} (hv : RecvFrame s v) (todo : List Act) (q : Phase) : RecvFrame s (v.load todo q) :=
    hv.trans (recvFrame_load v todo q)
  cases ph with
  | skip left =>
    cases left with
    | zero => cases h; exact hgo (hquiet rfl) _ _
    | succ left =>
      simp only [State.stepPhase, State.stepSkip] at h
      split at h <;> cases h
      · exact hload _ _
      · exact recvFrame_popSample ‹_›
      · exact hgo (recvFrame_popSample ‹_›) _ _
  | search =>
    simp only [State.stepPhase, State.stepSearch] at h
    split at h
    · cases h; exact hload _ _
    · split at h
      · cases h
      · cases h; exact hload _ _
      · cases h; exact recvFrame_fetch ‹_›
      · split at h <;> cases h
        · exact hgo (hquiet rfl) _ _
        · exact hquiet rfl
  | refine =>
    simp only [State.stepPhase, State.stepRefine] at h
    split at h
    · cases h; exact hgo (hquiet rfl) _ _
    · split at h
      · cases h
      · cases h; exact hgo (hquiet rfl) _ _
      · cases h; exact recvFrame_fetch ‹_›
      · split at h <;> cases h <;> exact hquiet rfl
  | calibrate =>
    rw [← engineStep_phase he, engineStep_calibrate he] at h
    cases h
    exact recvFrame_calibrate s
  | receive win =>
    simp only [State.stepPhase, State.stepReceive] at h
    split at h
    · cases h
    · cases h; exact hload _ _
    · cases h; exact recvFrame_fetch ‹_›
    · split at h <;> cases h <;> exact hgo (v := s.rsStep) (hquiet rfl) _ _
  | rxBits bits pilot =>
    simp only [State.stepPhase, State.stepRxBits] at h
    split at h
    · cases h; exact hload _ _
    · cases bits <;> cases h
      · exact hload _ _
      · exact hgo (hquiet rfl) _ _
  | confirm left =>
    cases left with
    | zero => cases h; exact hload _ _
    | succ left =>
      simp only [State.stepPhase, State.stepConfirm] at h
      split at h <;> cases h
      · exact hload _ _
      · exact recvFrame_fetch ‹_›
      · exact hgo (v := s.rsStep) (hquiet rfl) _ _
  | closing => cases h
  | _ => exact hp.elim

/-- RECV fixes no push to SMP_OUT or SYM_OUT and no clean-up of BYTE_IN. -/
def Act.ofRecv : Act → Bool
  | .pushSmp _ => false
  | .pushSym _ => false
  | .clearByteIn => false
  | _ => true

theorem ofRecv_of_recvPlace {r : RxState} {rest : List Act} (hp : recvPlace r (a :: rest) ph) : a.ofRecv = true := by
  cases ph with
  | receive win =>
    obtain ⟨-, ha | ⟨z, ha⟩⟩ := hp <;> cases ha
    rfl
  | rxBits bits pilot => obtain ⟨-, ha | ha | ha | ⟨b, ha⟩⟩ := hp <;> cases ha <;> rfl
  | confirm left => obtain ⟨-, ha⟩ | ⟨-, ha | ⟨z, ha⟩⟩ := hp <;> cases ha <;> rfl
  | closing => obtain ⟨e, -, ⟨-, ha⟩ | ⟨-, ha⟩ | ⟨-, ha⟩⟩ := hp <;> cases ha <;> rfl
  | skip | search | refine | calibrate => cases hp.2
  | _ => exact hp.elim

theorem recvFrame_perform (ha : a.ofRecv = true) (h : s.perform a = some t) : RecvFrame s t := by
  cases perform_cases h with
  | pushSmp | pushSym | clearByteIn => cases ha
  | pushByte b =>
    exact recvFrame_of_cal rfl (List.prefix_append ..) (takesFront_of_none rfl rfl (.inl rfl))
  | clearSmpIn => exact recvFrame_of_cal rfl List.prefix_rfl (takesFront_of_none rfl rfl (.inr rfl))
  | _ => exact recvFrame_of_quiet rfl

theorem recvFrame_engineStep {todo : List Act} (he : s.eng = .run .recv todo ph) (hcons : s.EngineConsistent)
    (h : s.engineStep = some t) : RecvFrame s t := by
  have hp := (engineConsistent_recv he).1 hcons
  cases todo with
  | nil => rw [engineStep_phase he] at h; exact recvFrame_stepPhase he hp h
  | cons a rest =>
    rw [engineStep_act he] at h
    exact (recvFrame_load s rest ph).trans (recvFrame_perform (ofRecv_of_recvPlace hp) h)

/-! ### Runs of one command -/

/-- What the steps of the executing command relate, transitively, every run of the engine does. -/
theorem runEngine_command {R : State → State → Prop} {todo : List Act} (hrefl : R s s)
    (htrans : ∀ v w, R s v → R v w → R s w)
    (hstep : ∀ v w todo ph, v.eng = .run c todo ph → v.EngineConsistent → v.engineStep = some w → R v w)
    (he : s.eng = .run c todo ph) (hcons : s.EngineConsistent) (k : Nat) : R s (State.runEngine k s) := by
  refine (runEngine_keeps
    (P := fun v => R s v ∧ v.EngineConsistent ∧ (v.eng = .idle ∨ ∃ todo ph, v.eng = .run c todo ph))
    (fun v w hv hw => ?_) k ⟨hrefl, hcons, .inr ⟨todo, ph, he⟩⟩).1
  obtain ⟨hreach, hv, hidle | ⟨todo', ph', hv'⟩⟩ := hv
  · rw [engineStep_idle hidle] at hw; cases hw
  · exact ⟨htrans _ _ hreach (hstep _ _ _ _ hv' hv hw), engineConsistent_engineStep hw hv, engineStep_command hv' hw⟩

theorem recvFrame_runEngine {todo : List Act} (he : s.eng = .run .recv todo ph) (hcons : s.EngineConsistent) (k : Nat) :
    RecvFrame s (State.runEngine k s) :=
  runEngine_command (.refl s) (fun _ _ => .trans) (fun _ _ _ _ => recvFrame_engineStep) he hcons k

/-- Settles O60: every engine step of RECV takes a unit, moves the receiver's own state, calibrates or performs one of its
actions. -/
theorem frameOfRecv : Obligations.FrameOfRecv := by
  unfold Obligations.FrameOfRecv
  intro s t hidle h
  rw [exec_eq] at h
  generalize hi : issued .recv s = v at h
  cases issued_cases hi with
  | abort hb | reject hb => rw [hidle] at hb; cases hb
  | bad =>
    rw [drive_idle rfl] at h
    cases h
    exact ⟨rfl, List.prefix_rfl, List.prefix_rfl, List.suffix_rfl, fun _ _ _ => ⟨rfl, rfl⟩⟩
  | begin =>
    have hcons : (begun .recv (s.accept .recv)).EngineConsistent :=
      engineConsistent_loadRecv (s := (s.accept .recv).recvStart) rfl ⟨rfl, rfl⟩
    have hframe := recvFrame_runEngine (s := begun .recv (s.accept .recv)) rfl hcons s.burst
    obtain rfl : State.runEngine s.burst (begun .recv (s.accept .recv)) = t := by cases h; rfl
    exact ⟨hframe.frame, hframe.byteOut, hframe.taken.dump, hframe.taken.smpIn,
      fun htables => hframe.cal { htables with }⟩

/-! ### The other commands and DUMP -/

/-- RX_CONSUMED and DUMP are as before, and at most units were taken from SMP_IN. -/
structure LeavesDump (s t : State) : Prop where
  rxConsumed : t.reg.rxConsumed = s.reg.rxConsumed
  dump : t.port.dump = s.port.dump
  smpIn : t.port.smpIn <:+ s.port.smpIn

theorem LeavesDump.refl (s : State) : LeavesDump s s := ⟨rfl, rfl, List.suffix_rfl⟩

theorem LeavesDump.trans (h : LeavesDump s t) (k : LeavesDump t u) : LeavesDump s u :=
  ⟨k.rxConsumed.trans h.rxConsumed, k.dump.trans h.dump, k.smpIn.trans h.smpIn⟩

theorem belongs_false (hc : c ∈ [Instr.nop, .srst, .calClear, .rsInit, .rsRatio]) (ph : Phase) :
    ph.belongs c = false := by
  simp only [List.mem_cons, List.not_mem_nil, or_false] at hc
  obtain rfl | rfl | rfl | rfl | rfl := hc <;> cases ph <;> rfl

theorem leavesDump_engineStep {todo : List Act} (hc : c ≠ .recv) (he : s.eng = .run c todo ph)
    (hcons : s.EngineConsistent) (h : s.engineStep = some t) : LeavesDump s t := by
  obtain ⟨-, hplace⟩ := (engineConsistent_other hc he).1 hcons
  have hstands (hsend : c ≠ .send) : s.StandsIn c := by
    obtain ⟨hph, hall⟩ | ⟨rfl, -⟩ := hplace
    · exact .inr ⟨todo, ph, he, hph, hall⟩
    · exact absurd rfl hsend
  have hnone (hc : c ∈ [Instr.nop, .srst, .calClear, .rsInit, .rsRatio]) : LeavesDump s t := by
    obtain ⟨hph, -⟩ | ⟨rfl, -⟩ := hplace
    · rw [belongs_false hc] at hph; cases hph
    · simp at hc
  cases c with
  | recv => exact absurd rfl hc
  | mod n =>
    have hframe := (emitting_engineStep (n := n) (.inl rfl) (fun _ _ => ModFrame.of_emit) nofun
      (fun _ _ _ => stepMod_cases) (fun _ _ _ => .trans) (.inr ⟨todo, ph, he, hplace⟩) h).1
    rw [hframe.frame]
    exact ⟨rfl, rfl, List.suffix_rfl⟩
  | send =>
    have hframe := (emitting_engineStep (n := 0) (.inr rfl) (fun _ _ => SendFrame.of_emit)
      (fun _ _ => ⟨rfl, List.prefix_rfl, List.nil_suffix⟩) (fun _ _ _ hph hstep => .inr (stepSend_goesOn hph hstep))
      (fun _ _ _ => .trans) (.inr ⟨todo, ph, he, hplace⟩) h).1
    rw [hframe.frame]
    exact ⟨rfl, rfl, List.suffix_rfl⟩
  | rsAdv n =>
    have hframe := (resampling_engineStep (n := n) (.inl rfl) (fun _ _ => AdvFrame.of_resample)
      (fun _ _ _ => advFrame_perform) (fun _ _ _ => .trans) (hstands nofun) h).1
    exact ⟨by rw [hframe.frame], by rw [hframe.frame], hframe.smpIn⟩
  | demod n =>
    have hframe := (resampling_engineStep (n := n) (.inr rfl) (fun _ _ => DemodFrame.of_resample)
      (fun _ _ _ => demodFrame_perform) (fun _ _ _ => .trans) (hstands nofun) h).1
    exact ⟨by rw [hframe.frame], by rw [hframe.frame], hframe.smpIn⟩
  | _ => exact hnone (by decide)

theorem leavesDump_runEngine (hne : ∀ todo ph, s.eng ≠ .run .recv todo ph) (hcons : s.EngineConsistent) (k : Nat) :
    LeavesDump s (State.runEngine k s) := by
  cases he : s.eng with
  | idle => rw [runEngine_idle he]; exact .refl s
  | run c todo ph =>
    have hc : c ≠ .recv := by rintro rfl; exact hne _ _ he
    exact runEngine_command (.refl s) (fun _ _ => .trans) (fun _ _ _ _ => leavesDump_engineStep hc) he hcons k

/-- Settles O49: a RECV's steps take from the front of SMP_IN, and what they take adds up over a run; the steps of the other
commands leave RX_CONSUMED and DUMP. -/
theorem dumpIsInputPrefix : Obligations.DumpIsInputPrefix := by
  unfold Obligations.DumpIsInputPrefix
  intro s k hcons
  refine ⟨fun todo ph he => (recvFrame_runEngine he hcons k).taken, fun hne => ?_⟩
  obtain ⟨hreg, hdump, us, hin⟩ := leavesDump_runEngine hne hcons k
  exact ⟨hreg, hdump, us, hin.symm⟩

end

end Sys2Proof.Machine
end

section
/-! PROOFS. Arrival times do not matter: an engine step that can be taken is the same before and after units and marks
arrive at the input ports (44_frame_rx.md R331; 43_frame_tx.md R259; 00_scope.md R8). -/

namespace Sys2Proof.Machine

/-! ### The slicer and the clock estimate read the setup alone -/

section
variable {x s : State}

theorem SameSetup.slice (h : SameSetup x s) (v : Cx) : x.slice v = s.slice v := by
  rw [State.slice, h.nearest, State.nBit, h.cfg]
  rfl

theorem SameSetup.slicedBits (h : SameSetup x s) (v : List Cx) : x.slicedBits v = s.slicedBits v := by
  simp only [State.slicedBits, h.slice, State.nBit, h.cfg]

theorem SameSetup.unwrapped (h : SameSetup x s) (rs : List (List Cx)) (t : Nat) : x.unwrapped rs t = s.unwrapped rs t := by
  have herror (t : Nat) : x.trainError rs t = s.trainError rs t := by
    simp only [State.trainError, State.pilot, State.trainSymbol, State.trainIndex, State.point, h.num, h.cfg]
    rfl
  induction t with
  | zero => exact herror 0
  | succ t ih => rw [State.unwrapped, State.unwrapped, ih, herror, herror, h.num]

theorem SameSetup.initialRatio (h : SameSetup x s) (rs : List (List Cx)) : x.initialRatio rs = s.initialRatio rs := by
  simp only [State.initialRatio, State.drift, State.timingOffset, State.midTraining, State.nTrain, State.nSym, State.bin,
    State.pilot, h.unwrapped, h.num, h.cfg]
  rfl

end

/-! ### Arrivals -/

/-- Units and end-of-stream marks that arrive at the input ports (20_memory.md R106). -/
structure Arrival where
  byteIn : List Byte := []
  byteInEos : Bool := false
  smpIn : List SampleUnit := []
  smpInEos : Bool := false
  symIn : List SymbolUnit := []
  symInEos : Bool := false

/-- The state after an arrival. -/
def State.arrive (s : State) (x : Arrival) : State :=
  { s with port := { s.port with
      byteIn := s.port.byteIn ++ x.byteIn
      byteInEos := s.port.byteInEos || x.byteInEos
      smpIn := s.port.smpIn ++ x.smpIn
      smpInEos := s.port.smpInEos || x.smpInEos
      symIn := s.port.symIn ++ x.symIn
      symInEos := s.port.symInEos || x.symInEos } }

/-- No unit arrives after a mark. -/
structure Arrival.Fits (x : Arrival) (s : State) : Prop where
  byteIn : s.port.byteInEos = true → x.byteIn = []
  smpIn : s.port.smpInEos = true → x.smpIn = []
  symIn : s.port.symInEos = true → x.symIn = []

section
variable {s t : State} {x : Arrival} {ph : Phase} {recv : Bool}

theorem arrive_load (s : State) (x : Arrival) (todo : List Act) (q : Phase) :
    (s.arrive x).load todo q = (s.load todo q).arrive x := by
  unfold State.load
  rw [show (s.arrive x).eng = s.eng from rfl]
  split <;> rfl

theorem arrive_rsNeed : (s.arrive x).rsNeed = s.rsNeed := rfl

theorem arrive_corrNeed : (s.arrive x).corrNeed (s.arrive x).rx.d = s.corrNeed s.rx.d := rfl

/-! ### Pops after an arrival -/

/-- What a pop came to, with the arrival in the state it leaves. -/
def Taken.arrive {α : Type} (x : Arrival) : Taken α → Taken α
  | .hold => .hold
  | .eos => .eos
  | .got a t => .got a (t.arrive x)

/-- What a fetch came to, with the arrival in the state it leaves. -/
def Fetch.arrive (x : Arrival) : Fetch → Fetch
  | .ready => .ready
  | .hold => .hold
  | .eos => .eos
  | .progress t => .progress (t.arrive x)

section
variable (hx : x.Fits s)
include hx

theorem popByte_arrive (h : s.popByte ≠ .hold) : (s.arrive x).popByte = s.popByte.arrive x := by
  cases hin : s.port.byteIn with
  | cons b rest => rw [popByte_cons hin, popByte_cons (by rw [State.arrive, hin]; rfl)]; rfl
  | nil =>
    cases heos : s.port.byteInEos with
    | false => rw [popByte_nil hin, heos] at h; exact absurd rfl h
    | true =>
      rw [popByte_nil hin, popByte_nil (by simp [State.arrive, hin, hx.byteIn heos]), State.arrive, heos]
      rfl

theorem popSym_arrive (h : s.popSym ≠ .hold) : (s.arrive x).popSym = s.popSym.arrive x := by
  cases hin : s.port.symIn with
  | cons b rest => rw [popSym_cons hin, popSym_cons (by rw [State.arrive, hin]; rfl)]; rfl
  | nil =>
    cases heos : s.port.symInEos with
    | false => rw [popSym_nil hin, heos] at h; exact absurd rfl h
    | true =>
      rw [popSym_nil hin, popSym_nil (by simp [State.arrive, hin, hx.symIn heos]), State.arrive, heos]
      rfl

theorem popSmp_arrive (h : s.popSmp recv ≠ .hold) : (s.arrive x).popSmp recv = (s.popSmp recv).arrive x := by
  cases hin : s.port.smpIn with
  | cons u rest =>
    have hin' : (s.arrive x).port.smpIn = u :: (rest ++ x.smpIn) := by rw [State.arrive, hin]; rfl
    cases recv with
    | false => rw [popSmp_cons hin, popSmp_cons hin']; rfl
    | true =>
      have hroom : s.dumpEn = true → s.port.dump.length < s.par.depth.dump := fun hen =>
        not_le.1 fun hfull => h (popSmp_recv_full hin hen hfull)
      rw [popSmp_recv_cons hin hroom, popSmp_recv_cons hin' hroom]
      rfl
  | nil =>
    cases heos : s.port.smpInEos with
    | false => rw [popSmp_nil hin, heos] at h; exact absurd rfl h
    | true =>
      rw [popSmp_nil hin, popSmp_nil (by simp [State.arrive, hin, hx.smpIn heos]), State.arrive, heos]
      rfl

theorem popSample_arrive (h : s.popSample recv ≠ .hold) :
    (s.arrive x).popSample recv = (s.popSample recv).arrive x := by
  have hpop : s.popSmp recv ≠ .hold := fun hhold => h (by rw [State.popSample, hhold])
  rw [State.popSample, popSmp_arrive hx hpop, State.popSample]
  cases s.popSmp recv with
  | hold => rfl
  | eos => rfl
  | got u t =>
    dsimp only [Taken.arrive]
    rw [show (s.arrive x).pcmEn = s.pcmEn from rfl, show (s.arrive x).pcmLo = s.pcmLo from rfl]
    split
    · split <;> rfl
    · rfl

theorem fetch_arrive {i : Int} (h : s.fetch recv i ≠ .hold) : (s.arrive x).fetch recv i = (s.fetch recv i).arrive x := by
  unfold State.fetch at h ⊢
  rw [show (s.arrive x).rs = s.rs from rfl]
  split
  case isTrue => rfl
  case isFalse hi =>
    rw [if_neg hi] at h
    have hpop : s.popSample recv ≠ .hold := fun hhold => h (by rw [hhold])
    rw [popSample_arrive hx hpop]
    cases s.popSample recv with
    | hold => rfl
    | eos => rfl
    | got y t => cases y <;> rfl

/-! ### Steps after an arrival -/

theorem stepPhase_arrive (h : s.stepPhase ph = some t) : (s.arrive x).stepPhase ph = some (t.arrive x) := by
  have hload {v w : State} {todo : List Act} {q : Phase} (hw : w = v.arrive x) :
      some (w.load todo q) = some ((v.load todo q).arrive x) := by
    rw [hw, arrive_load]
  have hfetch {recv : Bool} {i : Int} {f : Fetch} (hf : s.fetch recv i = f) (hne : f ≠ .hold) :
      (s.arrive x).fetch recv i = f.arrive x := by
    rw [fetch_arrive hx (by rwa [hf]), hf]
  have hsetup : SameSetup (s.arrive x) s := ⟨rfl, rfl, rfl⟩
  cases ph with
  | adv left =>
    cases left with
    | zero => cases h; rfl
    | succ left =>
      simp only [State.stepPhase, State.stepAdv] at h ⊢
      split at h <;> cases h <;> rename_i hf <;> rw [arrive_rsNeed, hfetch hf nofun]
      · rfl
      · rfl
      · exact hload rfl
  | mod left syms =>
    cases left with
    | zero => cases h; rfl
    | succ left =>
      simp only [State.stepPhase, State.stepMod] at h ⊢
      split at h
      · cases h
      · next hpop => cases h; rw [popSym_arrive hx (by rw [hpop]; nofun), hpop]; rfl
      · next hpop =>
        rw [popSym_arrive hx (by rw [hpop]; nofun), hpop]
        dsimp only [Taken.arrive]
        rw [show (s.arrive x).nCar = s.nCar from rfl]
        split at h <;> cases h
        · rw [if_pos ‹_›]; exact hload rfl
        · rw [if_neg ‹_›]; exact hload rfl
  | demod left win =>
    cases left with
    | zero => cases h; rfl
    | succ left =>
      simp only [State.stepPhase, State.stepDemod] at h ⊢
      split at h
      · cases h
      · next hf => cases h; rw [arrive_rsNeed, hfetch hf nofun]; rfl
      · next hf => cases h; rw [arrive_rsNeed, hfetch hf nofun]; rfl
      · next hf =>
        rw [arrive_rsNeed, hfetch hf nofun]
        dsimp only [Fetch.arrive]
        split at h <;> cases h
        · exact (if_pos ‹_›).trans (hload rfl)
        · exact (if_neg ‹_›).trans (hload rfl)
  | lead left => cases left <;> (cases h; exact hload rfl)
  | preamble i =>
    simp only [State.stepPhase, State.stepPreamble] at h ⊢
    split at h <;> cases h
    · exact (if_pos ‹_›).trans (hload rfl)
    · exact (if_neg ‹_›).trans (hload rfl)
  | data =>
    simp only [State.stepPhase, State.stepData] at h ⊢
    split at h
    · cases h
    · next hpop => cases h; rw [popByte_arrive hx (by rw [hpop]; nofun), hpop]; exact hload rfl
    · next hpop =>
      rw [popByte_arrive hx (by rw [hpop]; nofun), hpop]
      dsimp only [Taken.arrive]
      split at h <;> cases h
      · exact (if_pos ‹_›).trans (hload rfl)
      · exact (if_neg ‹_›).trans (hload rfl)
  | emit queue last => cases queue <;> (cases h; exact hload rfl)
  | pad =>
    simp only [State.stepPhase, State.stepPad] at h ⊢
    split at h <;> cases h
    · exact (if_pos ‹_›).trans (hload rfl)
    · exact (if_neg ‹_›).trans (hload rfl)
  | trail left => cases left <;> (cases h; exact hload rfl)
  | skip left =>
    cases left with
    | zero => cases h; exact hload rfl
    | succ left =>
      simp only [State.stepPhase, State.stepSkip] at h ⊢
      split at h <;> cases h <;> rename_i hpop <;> rw [popSample_arrive hx (by rw [hpop]; nofun), hpop]
      · exact hload rfl
      · rfl
      · exact hload rfl
  | search =>
    simp only [State.stepPhase, State.stepSearch] at h ⊢
    split at h
    · cases h; exact (if_pos ‹_›).trans (hload rfl)
    · refine (if_neg ‹_›).trans ?_
      split at h
      · cases h
      · next hf => cases h; rw [arrive_corrNeed, hfetch hf nofun]; exact hload rfl
      · next hf => cases h; rw [arrive_corrNeed, hfetch hf nofun]; rfl
      · next hf =>
        rw [arrive_corrNeed, hfetch hf nofun]
        split at h <;> cases h
        · exact (if_pos ‹_›).trans (hload rfl)
        · exact if_neg ‹_›
  | refine =>
    simp only [State.stepPhase, State.stepRefine] at h ⊢
    split at h
    · cases h; exact (if_pos ‹_›).trans (hload rfl)
    · refine (if_neg ‹_›).trans ?_
      split at h
      · cases h
      · next hf => cases h; rw [arrive_corrNeed, hfetch hf nofun]; exact hload rfl
      · next hf => cases h; rw [arrive_corrNeed, hfetch hf nofun]; rfl
      · next hf =>
        rw [arrive_corrNeed, hfetch hf nofun]
        split at h <;> cases h
        · exact if_pos ‹_›
        · exact if_neg ‹_›
  | calibrate =>
    simp only [State.stepPhase, State.stepCalibrate] at h ⊢
    cases h
    rw [hsetup.initialRatio]
    exact hload rfl
  | receive win =>
    simp only [State.stepPhase, State.stepReceive] at h ⊢
    split at h
    · cases h
    · next hf => cases h; rw [arrive_rsNeed, hfetch hf nofun]; exact hload rfl
    · next hf => cases h; rw [arrive_rsNeed, hfetch hf nofun]; rfl
    · next hf =>
      rw [arrive_rsNeed, hfetch hf nofun, hsetup.slicedBits]
      split at h <;> cases h
      · exact (if_pos ‹_›).trans (hload rfl)
      · exact (if_neg ‹_›).trans (hload rfl)
  | rxBits bits pilot =>
    simp only [State.stepPhase, State.stepRxBits] at h ⊢
    split at h
    · cases h; exact (if_pos ‹_›).trans (hload rfl)
    · refine (if_neg ‹_›).trans ?_
      cases bits <;> (cases h; exact hload rfl)
  | confirm left =>
    cases left with
    | zero => cases h; exact hload rfl
    | succ left =>
      simp only [State.stepPhase, State.stepConfirm] at h ⊢
      split at h <;> cases h <;> rename_i hf <;> rw [arrive_rsNeed, hfetch hf nofun]
      · exact hload rfl
      · rfl
      · exact hload rfl
  | closing => cases h

end

theorem perform_arrive {a : Act} (hbyte : a = .clearByteIn → x.byteIn = [] ∧ x.byteInEos = false)
    (hsmp : a = .clearSmpIn → x.smpIn = [] ∧ x.smpInEos = false) (h : s.perform a = some t) :
    (s.arrive x).perform a = some (t.arrive x) := by
  cases perform_cases h with
  | pushSmp u hroom => exact if_pos hroom
  | pushSym u hroom => exact if_pos hroom
  | pushByte b hroom => exact if_pos hroom
  | clearByteIn =>
    obtain ⟨hin, heos⟩ := hbyte rfl
    simp [State.perform, State.clearByteIn, State.arrive, hin, heos]
  | clearSmpIn =>
    obtain ⟨hin, heos⟩ := hsmp rfl
    simp [State.perform, State.clearSmpIn, State.arrive, hin, heos]
  | track z => exact congrArg some (track_withClock (x := s.arrive x) (s := s) ⟨rfl, rfl, rfl⟩ z)
  | _ => rfl

/-- An engine step is the same before and after an arrival, but for the step that empties the port. -/
theorem engineStep_arrive (hx : x.Fits s)
    (hbyte : ∀ c rest ph, s.eng = .run c (.clearByteIn :: rest) ph → x.byteIn = [] ∧ x.byteInEos = false)
    (hsmp : ∀ c rest ph, s.eng = .run c (.clearSmpIn :: rest) ph → x.smpIn = [] ∧ x.smpInEos = false)
    (h : s.engineStep = some t) : (s.arrive x).engineStep = some (t.arrive x) := by
  obtain ⟨c, a, rest, ph, hc, h⟩ | ⟨c, ph, hc, h⟩ := engineStep_cases h
  · rw [engineStep_act (s := s.arrive x) hc, arrive_load]
    exact perform_arrive (fun ha => hbyte c rest ph (by rw [hc, ha])) (fun ha => hsmp c rest ph (by rw [hc, ha])) h
  · exact (engineStep_phase (s := s.arrive x) hc).trans (stepPhase_arrive hx h)

/-! ### The host's pushes -/

/-- The input ports of `t` hold no more units than those of `s`, and carry no mark that `s` does not. -/
structure InputsShrink (s t : State) : Prop where
  par : t.par = s.par
  byteIn : t.port.byteIn.length ≤ s.port.byteIn.length
  byteInEos : s.port.byteInEos = false → t.port.byteInEos = false
  smpIn : t.port.smpIn.length ≤ s.port.smpIn.length
  smpInEos : s.port.smpInEos = false → t.port.smpInEos = false
  symIn : t.port.symIn.length ≤ s.port.symIn.length
  symInEos : s.port.symInEos = false → t.port.symInEos = false

theorem InputsShrink.refl (s : State) : InputsShrink s s := by constructor <;> simp

theorem popSample_smpIn {y : Option Scalar} (h : s.popSample recv = .got y t) : ∃ u, s.port.smpIn = u :: t.port.smpIn := by
  obtain ⟨u, v, hpop, hy⟩ := popSample_got h
  have hport : t.port = v.port := by obtain ⟨-, -, rfl⟩ | ⟨-, -, -, rfl⟩ | ⟨-, lo, -, -, rfl⟩ := hy <;> rfl
  rw [hport]
  cases recv with
  | false => exact ⟨u, (popSmp_got hpop).1⟩
  | true => exact ⟨u, (popSmp_recv_got hpop).1⟩

theorem inputsShrink_popSample {v : State} {y : Option Scalar} (hp : t.popSample recv = .got y v)
    (h : InputsShrink s t) : InputsShrink s v := by
  obtain ⟨u, hin⟩ := popSample_smpIn hp
  have hle := length_le_of_eq_cons hin h.smpIn
  rw [popSample_frame hp]
  exact { h with smpIn := hle }

theorem inputsShrink_engineStep (h : s.engineStep = some t) : InputsShrink s t := by
  refine engineStep_keeps (P := InputsShrink s) (fun v todo q hv => ?_) (fun _ _ hv => { hv with })
    (fun v q u heff hv => ?_) (fun v a u hp hv => ?_) s t (.refl s) h
  · rw [load_frame]; exact { hv with }
  · cases heff with
    | unit hp => exact inputsShrink_popSample hp hv
    | sample hp => exact { inputsShrink_popSample hp hv with }
    | symbol hin => exact { hv with symIn := length_le_of_eq_cons hin hv.symIn }
    | byte tx hin => exact { hv with byteIn := length_le_of_eq_cons hin hv.byteIn }
    | _ => exact { hv with }
  · cases perform_cases hp with
    | clearByteIn => exact { hv with byteIn := Nat.zero_le _, byteInEos := fun _ => rfl }
    | clearSmpIn => exact { hv with smpIn := Nat.zero_le _, smpInEos := fun _ => rfl }
    | _ => exact { hv with }

theorem transact_pushByte {b : Byte} (hroom : s.port.byteIn.length < s.par.depth.byteIn) (heos : s.port.byteInEos = false) :
    s.transact (.pushByte b) = s.arrive { byteIn := [b] } := by
  simp [State.transact, State.hostPushByte, State.arrive, hroom, heos]

theorem transact_pushSmp {u : SampleUnit} (hroom : s.port.smpIn.length < s.par.depth.smpIn)
    (heos : s.port.smpInEos = false) : s.transact (.pushSmp u) = s.arrive { smpIn := [u] } := by
  simp [State.transact, State.hostPushSmp, State.arrive, hroom, heos]

theorem transact_pushSym {u : SymbolUnit} (hroom : s.port.symIn.length < s.par.depth.symIn)
    (heos : s.port.symInEos = false) : s.transact (.pushSym u) = s.arrive { symIn := [u] } := by
  simp [State.transact, State.hostPushSym, State.arrive, hroom, heos]

/-- The arrival of an end-of-stream mark alone. -/
def InPort.mark : InPort → Arrival
  | .byteIn => { byteInEos := true }
  | .smpIn => { smpInEos := true }
  | .symIn => { symInEos := true }

theorem transact_eos (s : State) (p : InPort) : s.transact (.eos p) = s.arrive p.mark := by
  cases p <;> simp [State.transact, State.hostEos, State.arrive, InPort.mark]

theorem fits_mark (s : State) (p : InPort) : p.mark.Fits s := by
  cases p <;> exact ⟨fun _ => rfl, fun _ => rfl, fun _ => rfl⟩

end

/-- Settles O57: a step that can be taken finds the units it takes in front of those that arrive, and finds its input ended
only where nothing can arrive. -/
theorem arrivalCommutes : Obligations.ArrivalCommutes := by
  unfold Obligations.ArrivalCommutes
  intro s t h
  have hshrink := inputsShrink_engineStep h
  refine ⟨fun hno => ⟨fun b hroom heos => ?_, ?_⟩, fun hno => ⟨fun u hroom heos => ?_, ?_⟩, fun u hroom heos => ?_, ?_⟩
  · have hroom' : t.port.byteIn.length < t.par.depth.byteIn := by rw [hshrink.par]; exact hshrink.byteIn.trans_lt hroom
    rw [transact_pushByte hroom heos, transact_pushByte hroom' (hshrink.byteInEos heos)]
    exact engineStep_arrive ⟨by simp [heos], fun _ => rfl, fun _ => rfl⟩ (fun c rest ph hc => absurd hc (hno c rest ph))
      (fun _ _ _ _ => ⟨rfl, rfl⟩) h
  · rw [transact_eos, transact_eos]
    exact engineStep_arrive (fits_mark s _) (fun c rest ph hc => absurd hc (hno c rest ph)) (fun _ _ _ _ => ⟨rfl, rfl⟩) h
  · have hroom' : t.port.smpIn.length < t.par.depth.smpIn := by rw [hshrink.par]; exact hshrink.smpIn.trans_lt hroom
    rw [transact_pushSmp hroom heos, transact_pushSmp hroom' (hshrink.smpInEos heos)]
    exact engineStep_arrive ⟨fun _ => rfl, by simp [heos], fun _ => rfl⟩ (fun _ _ _ _ => ⟨rfl, rfl⟩)
      (fun c rest ph hc => absurd hc (hno c rest ph)) h
  · rw [transact_eos, transact_eos]
    exact engineStep_arrive (fits_mark s _) (fun _ _ _ _ => ⟨rfl, rfl⟩) (fun c rest ph hc => absurd hc (hno c rest ph)) h
  · have hroom' : t.port.symIn.length < t.par.depth.symIn := by rw [hshrink.par]; exact hshrink.symIn.trans_lt hroom
    rw [transact_pushSym hroom heos, transact_pushSym hroom' (hshrink.symInEos heos)]
    exact engineStep_arrive ⟨fun _ => rfl, fun _ => rfl, by simp [heos]⟩ (fun _ _ _ _ => ⟨rfl, rfl⟩)
      (fun _ _ _ _ => ⟨rfl, rfl⟩) h
  · rw [transact_eos, transact_eos]
    exact engineStep_arrive (fits_mark s _) (fun _ _ _ _ => ⟨rfl, rfl⟩) (fun _ _ _ _ => ⟨rfl, rfl⟩) h

end Sys2Proof.Machine
end

section
/-! PROOFS. The units RECV takes, the resampler steps of a window or of CONFIRMING, and RECV's ends (44_frame_rx.md R312,
R318, R320 to R323, R325; 40_resampler.md R173, R175). -/

namespace Sys2Proof.Machine

section
variable {s t u v : State} {us vs : List SampleUnit} {x : SampleUnit} {rest : List SampleUnit} {ph : Phase}

/-! ### Units taken by RECV -/

/-- RECV took the units `us` from SMP_IN, counted and mirrored them; beside the engine mode, the buffer and the receive codec
nothing else changed (44_frame_rx.md R325). -/
structure Drew (s : State) (us : List SampleUnit) (t : State) : Prop where
  frame : t = { s with
    eng := t.eng
    port := { s.port with
      smpIn := t.port.smpIn, dump := if s.dumpEn then s.port.dump ++ us else s.port.dump }
    reg := { s.reg with rxConsumed := s.reg.rxConsumed + BitVec.ofNat 64 us.length }
    pcmLo := t.pcmLo
    rs := { s.rs with buf := t.rs.buf }
    rx := t.rx }
  smpIn : s.port.smpIn = us ++ t.port.smpIn

/-- RECV took units into `rs.buf`: no sample is lost or made up (40_resampler.md R173). -/
structure Gathered (s : State) (us : List SampleUnit) (t : State) : Prop extends Drew s us t where
  samples : t.allSamples = s.allSamples
  buf : s.rs.buf <+: t.rs.buf

/-- DUMP has room for the units in SMP_IN, if they are mirrored. -/
def State.DumpRoom (s : State) : Prop :=
  s.dumpEn = true → s.port.dump.length + s.port.smpIn.length ≤ s.par.depth.dump

theorem Drew.setup (h : Drew s us t) : SameSetup t s := by rw [h.frame]; exact ⟨rfl, rfl, rfl⟩

theorem Drew.par (h : Drew s us t) : t.par = s.par := by rw [h.frame]

theorem Drew.eos (h : Drew s us t) : t.port.smpInEos = s.port.smpInEos := by rw [h.frame]

theorem Drew.byteOut (h : Drew s us t) : t.port.byteOut = s.port.byteOut := by rw [h.frame]

theorem Drew.st (h : Drew s us t) : t.st = s.st := by rw [h.frame]

theorem Drew.count (h : Drew s us t) : t.reg.count = s.reg.count := by rw [h.frame]

theorem Drew.rxBlocks (h : Drew s us t) : t.reg.rxBlocks = s.reg.rxBlocks := by rw [h.frame]

theorem Drew.detOffset (h : Drew s us t) : t.reg.detOffset = s.reg.detOffset := by rw [h.frame]

theorem Drew.detPeak (h : Drew s us t) : t.reg.detPeak = s.reg.detPeak := by rw [h.frame]

theorem Drew.rsPos (h : Drew s us t) : t.reg.rsPos = s.reg.rsPos := by rw [h.frame]

theorem Drew.pos (h : Drew s us t) : t.rs.pos = s.rs.pos := by rw [h.frame]

theorem Drew.ratio (h : Drew s us t) : t.rs.ratio = s.rs.ratio := by rw [h.frame]

theorem Drew.dumpEn (h : Drew s us t) : t.dumpEn = s.dumpEn := by rw [h.frame]; rfl

theorem Drew.trans (h : Drew s us t) (k : Drew t vs u) : Drew s (us ++ vs) u where
  frame := by
    have hdump : u.port.dump = if s.dumpEn then s.port.dump ++ (us ++ vs) else s.port.dump := by
      rw [k.frame, h.dumpEn, h.frame]
      cases s.dumpEn <;> simp
    have hreg : u.reg = { s.reg with rxConsumed := s.reg.rxConsumed + BitVec.ofNat 64 (us ++ vs).length } := by
      rw [k.frame, h.frame, List.length_append, BitVec.ofNat_add, ← BitVec.add_assoc]
    rw [← hdump, ← hreg, k.frame, h.frame]
  smpIn := by rw [h.smpIn, k.smpIn, List.append_assoc]

theorem Drew.room (h : Drew s us t) (hroom : s.DumpRoom) : t.DumpRoom := by
  intro hen
  rw [h.dumpEn] at hen
  have hle := hroom hen
  rw [h.smpIn, List.length_append] at hle
  rw [h.frame]
  simp only [hen, if_true, List.length_append]
  omega

theorem Gathered.refl (s : State) : Gathered s [] s where
  frame := by
    have hdump : (if s.dumpEn then s.port.dump ++ [] else s.port.dump) = s.port.dump := by simp
    rw [hdump]
    simp
  smpIn := rfl
  samples := rfl
  buf := List.prefix_rfl

theorem Gathered.trans (h : Gathered s us t) (k : Gathered t vs u) : Gathered s (us ++ vs) u :=
  { h.toDrew.trans k.toDrew with
    samples := k.samples.trans h.samples
    buf := h.buf.trans k.buf }

/-- The engine mode and the receive codec are free in what was gathered. -/
theorem Gathered.withRx (h : Gathered s us t) (e : Eng) (r : RxCodec) : Gathered s us { t with eng := e, rx := r } where
  frame := by
    have hframe := h.frame
    rw [hframe]
  smpIn := h.smpIn
  samples := h.samples
  buf := h.buf

/-- The state after RECV took the unit `x` from SMP_IN, where `rest` stays. -/
def State.recvUnit (s : State) (x : SampleUnit) (rest : List SampleUnit) : State :=
  { s with
    port := { s.port with smpIn := rest, dump := if s.dumpEn then s.port.dump ++ [x] else s.port.dump }
    reg := { s.reg with rxConsumed := s.reg.rxConsumed + 1 }
    pcmLo := s.pendingAfter x }

/-- The state with samples appended to `rs.buf`. -/
def State.appendSamples (s : State) (xs : List Scalar) : State := { s with rs := { s.rs with buf := s.rs.buf ++ xs } }

theorem State.DumpRoom.head (hroom : s.DumpRoom) (hin : s.port.smpIn = x :: rest) :
    s.dumpEn = true → s.port.dump.length < s.par.depth.dump := fun hen => by
  have hle := hroom hen
  rw [hin, List.length_cons] at hle
  omega

theorem popSample_recv_cons (hin : s.port.smpIn = x :: rest) (hroom : s.DumpRoom) :
    s.popSample true = .got (s.completed x).head? (s.recvUnit x rest) := by
  have hpop := popSmp_recv_cons hin (hroom.head hin)
  rw [State.recvUnit, State.pendingAfter, State.completed]
  cases hpcm : s.pcmEn with
  | false => rw [popSample_real hpop hpcm]; rfl
  | true =>
    cases hlo : s.pcmLo with
    | none => rw [popSample_lowByte hpop hpcm hlo]; rfl
    | some lo => rw [popSample_highByte hpop hpcm hlo]; rfl

/-- A unit completes at most one sample. -/
theorem completed_cases (s : State) (x : SampleUnit) : s.completed x = [] ∨ ∃ y, s.completed x = [y] := by
  unfold State.completed
  split
  · split
    · exact .inl rfl
    · exact .inr ⟨_, rfl⟩
  · exact .inr ⟨_, rfl⟩

theorem fetch_recv_cons {i : Int} (hin : s.port.smpIn = x :: rest) (hroom : s.DumpRoom)
    (hi : (s.rs.buf.length : Int) ≤ i) :
    s.fetch true i = .progress ((s.recvUnit x rest).appendSamples (s.completed x)) := by
  rw [State.fetch, if_neg hi.not_gt, popSample_recv_cons hin hroom, State.appendSamples]
  obtain hnone | ⟨y, hy⟩ := completed_cases s x
  · rw [hnone, List.append_nil]; rfl
  · rw [hy]; rfl

theorem fetch_recv_nil {i : Int} (hin : s.port.smpIn = []) (hi : (s.rs.buf.length : Int) ≤ i) :
    s.fetch true i = if s.port.smpInEos then .eos else .hold := by
  rw [State.fetch, if_neg hi.not_gt, State.popSample, popSmp_nil hin]
  cases s.port.smpInEos <;> rfl

theorem drew_recvUnit (hin : s.port.smpIn = x :: rest) : Drew s [x] (s.recvUnit x rest) := ⟨rfl, hin⟩

theorem gathered_recvUnit (hin : s.port.smpIn = x :: rest) :
    Gathered s [x] ((s.recvUnit x rest).appendSamples (s.completed x)) where
  frame := rfl
  smpIn := hin
  samples := by
    rw [State.allSamples, State.allSamples, hin, sampleStream_cons, ← List.append_assoc]
    rfl
  buf := List.prefix_append ..

/-- RECV takes the units it needs up to the index `i`, or empties SMP_IN, and stays where it stands. -/
theorem reaches_gathered {i : Int}
    (hstep : ∀ u v, SameSetup u s → u.rx = s.rx → u.rs.pos = s.rs.pos → u.eng = s.eng → u.fetch true i = .progress v →
      u.engineStep = some v) (hroom : s.DumpRoom) :
    ∃ us u, s.Reaches u ∧ Gathered s us u ∧ u.eng = s.eng ∧ u.rx = s.rx ∧
      (i < u.rs.buf.length ∨ u.port.smpIn = []) := by
  generalize hin : s.port.smpIn = l
  induction l generalizing s with
  | nil => exact ⟨[], s, .refl s, .refl s, rfl, rfl, .inr hin⟩
  | cons x rest ih =>
    obtain hneed | hneed := lt_or_ge i s.rs.buf.length
    · exact ⟨[], s, .refl s, .refl s, rfl, rfl, .inl hneed⟩
    · let w := (s.recvUnit x rest).appendSamples (s.completed x)
      have hgather : Gathered s [x] w := gathered_recvUnit hin
      have hfetch : s.Reaches w := reaches_of_step fun b => hstep { s with burst := b } _ ⟨rfl, rfl, rfl⟩ rfl rfl rfl
        (fetch_recv_cons (s := { s with burst := b }) hin hroom hneed)
      obtain ⟨us, u, hreach, hu, heng, hrx, hend⟩ := ih (s := w)
        (fun u v hsetup hrx hpos heng => hstep u v (hsetup.trans hgather.setup) hrx hpos heng) (hgather.room hroom) rfl
      exact ⟨_, u, hfetch.trans hreach, hgather.trans hu, heng, hrx, hend⟩

/-! ### Resampler steps -/

/-- The state with its read position and that position's mirror replaced. -/
def State.atPos (s : State) (pos : Scalar) (mirror : Word) : State :=
  { s with rs := { s.rs with pos := pos }, reg := { s.reg with rsPos := mirror } }

theorem Gathered.atPos (h : Gathered s us t) (pos : Scalar) (mirror : Word) :
    Gathered (s.atPos pos mirror) us (t.atPos pos mirror) where
  frame := by
    have hframe := h.frame
    rw [hframe]
    rfl
  smpIn := h.smpIn
  samples := h.samples
  buf := h.buf

variable {k : Nat}

/-- RECV took units and made `k` resampler steps, each moving the position by the ratio (40_resampler.md R175). -/
structure Resampled (s : State) (us : List SampleUnit) (k : Nat) (t : State) : Prop where
  gathered : Gathered (s.atPos t.rs.pos t.reg.rsPos) us t
  pos : t.rs.pos = rsPosition s.num s.rs.ratio k s.rs.pos
  rx : t.rx = s.rx

theorem Resampled.setup (h : Resampled s us k t) : SameSetup t s := h.gathered.setup.trans ⟨rfl, rfl, rfl⟩

theorem resampled_zero (h : Gathered s us t) (hrx : t.rx = s.rx) : Resampled s us 0 t := by
  exact ⟨by rw [h.pos, h.rsPos]; exact h, h.pos, hrx⟩

theorem Resampled.of_rsStep {e : Eng} (h : Gathered s us u) (hrx : u.rx = s.rx)
    (k' : Resampled { u.rsStep with eng := e } vs k t) : Resampled s (us ++ vs) (k + 1) t where
  gathered := ((h.atPos t.rs.pos t.reg.rsPos).withRx e u.rx).trans k'.gathered
  pos := by rw [k'.pos, rsPosition, h.frame]; rfl
  rx := k'.rx.trans hrx

/-- RECV makes the `m` resampler steps it needs, fewer where the input is exhausted; `place` is where it stands with the values
so far. -/
theorem reaches_resampled {m : Nat} {place : List Scalar → Eng} (he : s.eng = place [])
    (hstep : ∀ w u, w.length < m → SameSetup u s → u.rx = s.rx → u.eng = place w →
      (∀ v, u.fetch true u.rsNeed = .progress v → u.engineStep = some v) ∧
      (u.rsNeed < u.rs.buf.length → u.engineStep = some { u.rsStep with eng := place (w ++ [u.rsValue]) }))
    (hroom : s.DumpRoom) :
    ∃ us t, s.Reaches t ∧ Resampled s us (s.rsAhead m).length t ∧ t.eng = place (s.rsAhead m) ∧
      ((s.rsAhead m).length = m ∨ ((s.rsAhead m).length < m ∧ t.port.smpIn = [] ∧ t.rs.buf.length ≤ t.rsNeed)) := by
  induction m generalizing s place with
  | zero => exact ⟨[], s, .refl s, resampled_zero (.refl s) rfl, he, .inl rfl⟩
  | succ m ih =>
    obtain ⟨us, u, hreach, hu, heng, hrx, hend⟩ := reaches_gathered (s := s) (i := s.rsNeed)
      (fun u v hsetup hrx hpos heng hf => (hstep [] u m.succ_pos hsetup hrx (heng.trans he)).1 v
        (by rwa [State.rsNeed, hsetup.num, hpos])) hroom
    have hahead (n : Nat) : u.rsAhead n = s.rsAhead n := by rw [State.rsAhead, hu.samples, hu.frame]; rfl
    have hneed : u.rsNeed = s.rsNeed := by rw [hu.frame]; rfl
    rw [← hneed] at hend
    obtain hready | hexhausted := lt_or_ge u.rsNeed u.rs.buf.length
    · let w : State := { u.rsStep with eng := place [u.rsValue] }
      have hvalue : u.rsAhead (m + 1) = u.rsValue :: w.rsAhead m := rsAhead_succ (c := .recv) hready
      have hmove : u.Reaches w := reaches_of_step fun b =>
        (hstep [] { u with burst := b } m.succ_pos ⟨hu.setup.num, hu.setup.cfg, hu.setup.cal⟩ hrx (heng.trans he)).2 hready
      obtain ⟨vs, t, hreach', ht, heng', hend'⟩ := ih (s := w) (place := fun xs => place (u.rsValue :: xs)) rfl
        (fun xs v hlen hsetup hrx' heng => hstep (u.rsValue :: xs) v (Nat.succ_lt_succ hlen)
          (hsetup.trans ⟨hu.setup.num, hu.setup.cfg, hu.setup.cal⟩) (hrx'.trans hrx) heng) (hu.room hroom)
      rw [← hahead, hvalue]
      exact ⟨_, t, (hreach.trans hmove).trans hreach', ht.of_rsStep hu hrx, heng',
        hend'.imp (congrArg _) fun ⟨hshort, hrest⟩ => ⟨Nat.succ_lt_succ hshort, hrest⟩⟩
    · have hempty : u.port.smpIn = [] := hend.resolve_left hexhausted.not_gt
      have hall : u.allSamples = u.rs.buf := by simp [State.allSamples, hempty, sampleStream]
      have hnil : s.rsAhead (m + 1) = [] := by rw [← hahead, State.rsAhead, hall, rsOutputs_exhausted hexhausted]
      rw [hnil]
      exact ⟨us, u, hreach, resampled_zero hu hrx, heng.trans he, .inr ⟨m.succ_pos, hempty, hexhausted⟩⟩

/-! ### RECV's ends -/

variable {r : RxState} {e : Cause}

/-- The state after RECV's end with the terminal state `r` and the cause `e` (44_frame_rx.md R320 to R323). -/
def State.closedAs (s : State) (r : RxState) (e : Cause) : State :=
  { s with
    eng := .idle
    st := { s.st with rx := r }.ended e
    port := { s.port with smpIn := [], smpInEos := false }
    pcmLo := none }

theorem Drew.closedAs_st (h : Drew s us t) : (t.closedAs r e).st = { s.st with rx := r }.ended e := by
  rw [State.closedAs, h.st]

theorem reaches_closed (he : s.eng = .run .recv (rxEnd r e) .closing) : s.Reaches (s.closedAs r e) := by
  have hset : s.Reaches { s.setRx r with eng := .run .recv [.clearSmpIn, .finish e] .closing } :=
    reaches_of_step fun b => by
      rw [engineStep_act (s := { s with burst := b }) he, load_run (s := { s with burst := b }) he]
      rfl
  have hclear : State.Reaches { s.setRx r with eng := .run .recv [.clearSmpIn, .finish e] .closing }
      { (s.setRx r).clearSmpIn with eng := .run .recv [.finish e] .closing } := reaches_of_step fun b => rfl
  exact (hset.trans hclear).trans (reaches_of_step fun b => rfl)

/-- A step of RECV's rule that ends it comes to the end. -/
theorem reaches_end {ph : Phase} (he : s.eng = .run .recv [] ph)
    (hstep : ∀ b, State.stepPhase { s with burst := b } ph =
      some (State.load { s with burst := b } (rxEnd r e) .closing)) : s.Reaches (s.closedAs r e) := by
  have hfix : s.Reaches { s with eng := .run .recv (rxEnd r e) .closing } := reaches_of_step fun b => by
    rw [engineStep_phase (s := { s with burst := b }) he, hstep, load_run (s := { s with burst := b }) he]
  exact hfix.trans (reaches_closed rfl)

/-- What a run reaches, some number of steps reaches. -/
theorem runEngine_of_reaches (h : s.Reaches t) : ∃ k, State.runEngine k s = { t with burst := s.burst } := by
  obtain ⟨k, hk⟩ := h
  exact ⟨k, hk s.burst⟩

/-! ### CONFIRMING -/

/-- One step of CONFIRMING with samples still to read. -/
theorem stepConfirm_cases {left : Nat} (he : s.eng = .run .recv [] (.confirm (left + 1))) :
    (∀ v, s.fetch true s.rsNeed = .progress v → s.engineStep = some v) ∧
    (s.rsNeed < s.rs.buf.length → s.engineStep = some { s.rsStep with eng := .run .recv [] (.confirm left) }) := by
  rw [engineStep_phase he]
  refine ⟨fun v hf => ?_, fun hready => ?_⟩
  · rw [State.stepPhase, State.stepConfirm, hf]
  · rw [State.stepPhase, State.stepConfirm, fetch_ready.2 hready]
    exact congrArg some (load_run (s := s.rsStep) he _ _)

theorem stepConfirm_eos {left : Nat} (h : s.fetch true s.rsNeed = .eos) :
    s.stepPhase (.confirm (left + 1)) = some s.endTruncated := by
  rw [State.stepPhase, State.stepConfirm, h]

/-- The terminal state and the cause of a CONFIRMING that needs `c` samples and finds `m` (44_frame_rx.md R318). -/
def confirmEnd (m c : Nat) : RxState × Cause := if m = c then (.done, .none) else (.truncated, .truncated)

/-- CONFIRMING comes to its end on marked input, or on enough of it. -/
theorem reaches_confirmed {c : Nat} (he : s.eng = .run .recv [] (.confirm c)) (hroom : s.DumpRoom)
    (hinput : s.port.smpInEos = true ∨ (s.rsAhead c).length = c) :
    ∃ us t, Resampled s us (s.rsAhead c).length t ∧
      s.Reaches (t.closedAs (confirmEnd (s.rsAhead c).length c).1 (confirmEnd (s.rsAhead c).length c).2) := by
  obtain ⟨us, t, hreach, ht, heng, hend⟩ := reaches_resampled (m := c)
    (place := fun w => .run .recv [] (.confirm (c - w.length))) he (fun w u hlen _ _ heng => by
      obtain ⟨left, hleft⟩ := Nat.exists_eq_add_of_lt hlen
      have hlen' : c - w.length = left + 1 := by omega
      have hnext : c - (w ++ [u.rsValue]).length = left := by rw [List.length_append, List.length_singleton]; omega
      rw [hnext]
      rw [hlen'] at heng
      exact stepConfirm_cases heng) hroom
  refine ⟨us, t, ht, hreach.trans ?_⟩
  obtain hwhole | ⟨hshort, hin, hneed⟩ := hend
  · rw [hwhole, Nat.sub_self] at heng
    rw [hwhole, confirmEnd, if_pos rfl]
    exact reaches_end heng fun b => rfl
  · have heos : t.port.smpInEos = true := ht.gathered.eos.trans (hinput.resolve_right hshort.ne)
    obtain ⟨left, hleft⟩ := Nat.exists_eq_add_of_lt hshort
    rw [show c - (s.rsAhead c).length = left + 1 by omega] at heng
    rw [confirmEnd, if_neg hshort.ne]
    refine reaches_end heng fun b => stepConfirm_eos (s := { t with burst := b }) ?_
    exact (fetch_recv_nil (s := { t with burst := b }) hin hneed).trans (if_pos heos)

/-- Settles O44: CONFIRMING takes its samples one after another, or finds the input ended. -/
theorem confirmingEnds : Obligations.ConfirmingEnds := by
  unfold Obligations.ConfirmingEnds
  intro s c he hroom m hinput
  obtain ⟨us, t, ht, hreach⟩ := reaches_confirmed he hroom hinput
  obtain ⟨k, hk⟩ := runEngine_of_reaches hreach
  refine ⟨k, ?_⟩
  rw [hk]
  refine ⟨rfl, ht.gathered.closedAs_st.trans ?_, ht.gathered.byteOut, rfl, rfl, rfl⟩
  rw [confirmEnd]
  split <;> rfl

end

end Sys2Proof.Machine
end

section
/-! PROOFS. One block of RECEIVING: its window, its bits and the tracking update (44_frame_rx.md R312 to R315, R321). -/

namespace Sys2Proof.Machine

section
variable {s t u x : State} {us : List SampleUnit} {w : List Scalar} {v gains : List Cx} {bits : List Bool} {pilot : Cx}
  {ph : Phase}

/-! ### The window -/

theorem SameSetup.calibrated (h : SameSetup x s) : x.calibrated gains w = s.calibrated gains w := by
  have e : { s with num := x.num, cfg := x.cfg } = s := by rw [h.num, h.cfg]
  rw [← e]
  rfl

/-- Where RECEIVING stands with the values `w` of its window: whole, the block is counted and its bits are parsed
(44_frame_rx.md R312). -/
def State.windowPlace (s : State) (w : List Scalar) : Eng :=
  if s.nSym ≤ w.length then
    .run .recv [.blockUp]
      (.rxBits (s.slicedBits (s.calibrated s.rx.gains w)) (s.pilotOf (s.calibrated s.rx.gains w)))
  else .run .recv [] (.receive w)

theorem SameSetup.windowPlace (h : SameSetup x s) (hrx : x.rx = s.rx) : x.windowPlace w = s.windowPlace w := by
  rw [State.windowPlace, State.windowPlace, hrx, h.calibrated, h.slicedBits, h.pilotOf, h.nSym]

theorem windowPlace_short (h : w.length < s.nSym) : s.windowPlace w = .run .recv [] (.receive w) := if_neg h.not_ge

/-- One step of RECEIVING. -/
theorem stepReceive_cases (he : s.eng = .run .recv [] (.receive w)) :
    (∀ v, s.fetch true s.rsNeed = .progress v → s.engineStep = some v) ∧
    (s.rsNeed < s.rs.buf.length → s.engineStep = some { s.rsStep with eng := s.windowPlace (w ++ [s.rsValue]) }) := by
  rw [engineStep_phase he, State.stepPhase, State.stepReceive]
  refine ⟨fun v hf => by rw [hf], fun hready => ?_⟩
  have hload := load_run (s := s.rsStep) he
  rw [fetch_ready.2 hready, State.windowPlace]
  dsimp only
  split
  · exact congrArg some (hload _ _)
  · exact congrArg some (hload _ _)

theorem stepReceive_eos (h : s.fetch true s.rsNeed = .eos) : s.stepPhase (.receive w) = some s.endTruncated := by
  rw [State.stepPhase, State.stepReceive, h]

theorem reaches_window (he : s.eng = .run .recv [] (.receive [])) (hpos : 0 < s.nSym) (hroom : s.DumpRoom) :
    ∃ us t, s.Reaches t ∧ Resampled s us (s.rsAhead s.nSym).length t ∧ t.eng = s.windowPlace (s.rsAhead s.nSym) ∧
      ((s.rsAhead s.nSym).length = s.nSym ∨
        ((s.rsAhead s.nSym).length < s.nSym ∧ t.port.smpIn = [] ∧ t.rs.buf.length ≤ t.rsNeed)) :=
  reaches_resampled (place := s.windowPlace) (he.trans (windowPlace_short (s := s) (w := []) hpos).symm)
    (fun w u hlen hsetup hrx heng => by
      rw [windowPlace_short hlen] at heng
      rw [← hsetup.windowPlace hrx]
      exact stepReceive_cases heng) hroom

/-- A short block on marked input ends RECEIVING (44_frame_rx.md R321). -/
theorem reaches_truncated (he : s.eng = .run .recv [] (.receive [])) (hroom : s.DumpRoom)
    (hshort : (s.rsAhead s.nSym).length < s.nSym) (heos : s.port.smpInEos = true) :
    ∃ us t, Resampled s us (s.rsAhead s.nSym).length t ∧ s.Reaches (t.closedAs .truncated .truncated) := by
  obtain ⟨us, t, hreach, ht, heng, hend⟩ := reaches_window he (Nat.zero_lt_of_lt hshort) hroom
  obtain ⟨-, hin, hneed⟩ := hend.resolve_left hshort.ne
  rw [windowPlace_short hshort] at heng
  have heos : t.port.smpInEos = true := ht.gathered.eos.trans heos
  exact ⟨us, t, ht, hreach.trans (reaches_end heng fun b => stepReceive_eos (s := { t with burst := b })
    ((fetch_recv_nil (s := { t with burst := b }) hin hneed).trans (if_pos heos)))⟩

/-! ### The bits -/

/-- The state with a bit stream parsed and its bytes delivered and counted (44_frame_rx.md R313 to R315). -/
def State.parsed (s : State) (bits : List Bool) : State :=
  { s with
    rx := (s.rx.feed bits).1
    port := { s.port with byteOut := s.port.byteOut ++ (s.rx.feed bits).2 }
    reg := { s.reg with count := s.reg.count + BitVec.ofNat 64 (s.rx.feed bits).2.length } }

theorem parsed_of_feed (h : s.rx.feed bits = (s.rx, [])) : s.parsed bits = s := by
  rw [State.parsed, h]
  simp

/-- What follows the bits of a block: the tracking update, and CONFIRMING once the sentinel is decoded
(44_frame_rx.md R312). -/
def State.bitsEnd (s : State) (pilot : Cx) (sentinel : Bool) : Eng :=
  if sentinel then .run .recv [.track pilot, .setRx .confirming] (.confirm s.cfg.confirm.toNat)
  else .run .recv [.track pilot] (.receive [])

theorem reaches_bitsEnd (he : s.eng = .run .recv [] (.rxBits bits pilot)) (h : s.rx.sentinel = true ∨ bits = []) :
    s.Reaches { s.parsed bits with eng := s.bitsEnd pilot (s.rx.feed bits).1.sentinel } := by
  have hfeed : s.rx.feed bits = (s.rx, []) := by
    obtain hs | rfl := h
    · exact feed_of_sentinel hs bits
    · rfl
  rw [parsed_of_feed hfeed, hfeed]
  refine reaches_of_step fun b => ?_
  have hload := load_run (s := { s with burst := b }) he
  rw [engineStep_phase (s := { s with burst := b }) he, State.stepPhase, State.bitsEnd]
  unfold State.stepRxBits
  obtain hs | rfl := h
  · rw [if_pos hs, if_pos hs, hload]
  · dsimp only
    split
    · rw [hload]
    · rw [hload]

/-- The state with the byte a bit delivers, if any, pushed and counted. -/
def State.delivered (s : State) (o : Option Byte) : State :=
  { s with
    port := { s.port with byteOut := s.port.byteOut ++ o.toList }
    reg := { s.reg with count := s.reg.count + BitVec.ofNat 64 o.toList.length } }

theorem reaches_delivered {o : Option Byte} (he : s.eng = .run .recv (deliver o) ph)
    (hroom : s.port.byteOut.length + o.toList.length ≤ s.par.depth.byteOut) :
    s.Reaches { s.delivered o with eng := .run .recv [] ph } := by
  cases o with
  | none =>
    have hnil : s.delivered none = s := by simp [State.delivered]
    rw [hnil, ← show s.eng = .run .recv [] ph from he]
    exact .refl s
  | some v =>
    have hpush : s.Reaches { s with
        eng := .run .recv [.countUp] ph
        port := { s.port with byteOut := s.port.byteOut ++ [v] } } := reaches_of_step fun b => by
      rw [engineStep_act (s := { s with burst := b }) he, load_run (s := { s with burst := b }) he]
      exact pushByte_eq_some.2 ⟨hroom, rfl⟩
    exact hpush.trans (reaches_of_step fun b => rfl)

/-- The bit loop of RECEIVING parses the block's bits (44_frame_rx.md R312 to R315). -/
theorem reaches_parsed (he : s.eng = .run .recv [] (.rxBits bits pilot))
    (hroom : s.port.byteOut.length + (s.rx.feed bits).2.length ≤ s.par.depth.byteOut) :
    s.Reaches { s.parsed bits with eng := s.bitsEnd pilot (s.rx.feed bits).1.sentinel } := by
  induction bits generalizing s with
  | nil => exact reaches_bitsEnd he (.inr rfl)
  | cons c cs ih =>
    cases hs : s.rx.sentinel with
    | true => exact reaches_bitsEnd he (.inl hs)
    | false =>
      let q := s.rx.rxBit c
      let u := { State.delivered { s with rx := q.1 } q.2 with eng := .run .recv [] (.rxBits cs pilot) }
      have hfeed := feed_cons hs c cs
      rw [hfeed, List.length_append] at hroom
      have hbit : s.Reaches { s with rx := q.1, eng := .run .recv (deliver q.2) (.rxBits cs pilot) } :=
        reaches_of_step fun b => by
          rw [engineStep_phase (s := { s with burst := b }) he, State.stepPhase, State.stepRxBits,
            if_neg (Bool.eq_false_iff.1 hs)]
          exact congrArg some (load_run (s := { s with burst := b, rx := q.1 }) he _ _)
      have hbyte : State.Reaches { s with rx := q.1, eng := .run .recv (deliver q.2) (.rxBits cs pilot) } u :=
        reaches_delivered rfl (by dsimp only [q]; omega)
      have hrest := ih (s := u) rfl (by dsimp only [u, State.delivered, q]; rw [List.length_append]; omega)
      have hparsed : u.parsed cs = { s.parsed (c :: cs) with eng := u.eng } := by
        rw [State.parsed, State.parsed, hfeed, List.length_append, BitVec.ofNat_add, ← BitVec.add_assoc, ← List.append_assoc]
        rfl
      rw [hparsed] at hrest
      rw [hfeed]
      exact (hbit.trans hbyte).trans hrest

/-! ### The block -/

theorem track_of_clock (h : SameSetup x s) (hpos : x.rs.pos = s.rs.pos) (hratio : x.rs.ratio = s.rs.ratio) (z : Cx) :
    x.track z = x.withClock (s.track z) := by
  rw [State.track, State.track, h.pilotError]
  simp only [State.trackBy, State.timingOffset, State.setPhase, State.setRatio, State.setPos, State.withClock, State.kP,
    State.kI, State.nSym, State.bin, State.pilot, h.num, h.cfg, hpos, hratio]

/-- The state after a block's tracking update, the engine going on with the next block or, the sentinel decoded, with
CONFIRMING (44_frame_rx.md R312). -/
def State.blockEnd (s : State) (pilot : Cx) : State :=
  State.withClock { s with
    eng := .run .recv [] (if s.rx.sentinel then .confirm s.cfg.confirm.toNat else .receive [])
    st := { s.st with rx := if s.rx.sentinel then .confirming else .receiving } } (s.track pilot)

theorem blockEnd_withEng (e : Eng) : State.blockEnd { s with eng := e } pilot = s.blockEnd pilot := by
  rw [State.blockEnd, track_of_clock (x := { s with eng := e }) (s := s) ⟨rfl, rfl, rfl⟩ rfl rfl]
  rfl

theorem reaches_blockEnd (he : s.eng = s.bitsEnd pilot s.rx.sentinel) (hst : s.st.rx = .receiving) :
    s.Reaches (s.blockEnd pilot) := by
  have htrack (todo : List Act) (ph : Phase) (h : s.eng = .run .recv (.track pilot :: todo) ph) :
      s.Reaches (State.withClock { s with eng := .run .recv todo ph } (s.track pilot)) := reaches_of_step fun b => by
    rw [engineStep_act (s := { s with burst := b }) h, load_run (s := { s with burst := b }) h]
    exact congrArg some (track_of_clock (x := { s with burst := b, eng := .run .recv todo ph }) (s := s) ⟨rfl, rfl, rfl⟩
      rfl rfl pilot)
  rw [State.bitsEnd] at he
  rw [State.blockEnd]
  cases hs : s.rx.sentinel with
  | true =>
    rw [hs] at he
    exact (htrack _ _ he).trans (reaches_of_step fun b => rfl)
  | false =>
    rw [hs] at he
    have hkeep : { s.st with rx := .receiving } = s.st := by rw [← hst]
    exact hkeep ▸ htrack _ _ he

/-- The state with the block of the calibrated symbols `v` counted, parsed and tracked (44_frame_rx.md R312 to R314). -/
def State.afterBlock (s : State) (v : List Cx) : State := (s.blockUp.parsed (s.slicedBits v)).blockEnd (s.pilotOf v)

theorem reaches_afterBlock (he : s.eng = .run .recv [.blockUp] (.rxBits (s.slicedBits v) (s.pilotOf v)))
    (hst : s.st.rx = .receiving)
    (hroom : s.port.byteOut.length + (s.rx.feed (s.slicedBits v)).2.length ≤ s.par.depth.byteOut) :
    s.Reaches (s.afterBlock v) := by
  let w := { s.blockUp with eng := .run .recv [] (.rxBits (s.slicedBits v) (s.pilotOf v)) }
  have hcount : s.Reaches w := reaches_of_step fun b => by
    rw [engineStep_act (s := { s with burst := b }) he, load_run (s := { s with burst := b }) he]
    rfl
  have hbits : w.Reaches _ := reaches_parsed rfl hroom
  let e := w.bitsEnd (s.pilotOf v) (w.rx.feed (s.slicedBits v)).1.sentinel
  rw [State.afterBlock, ← blockEnd_withEng e]
  exact (hcount.trans hbits).trans (reaches_blockEnd rfl hst)

/-- RECEIVING takes a whole window and its block (44_frame_rx.md R312). -/
theorem reaches_block (he : s.eng = .run .recv [] (.receive [])) (hpos : 0 < s.nSym) (hroom : s.DumpRoom)
    (hst : s.st.rx = .receiving) (hwhole : (s.rsAhead s.nSym).length = s.nSym)
    (hv : s.calibrated s.rx.gains (s.rsAhead s.nSym) = v)
    (hout : s.port.byteOut.length + (s.rx.feed (s.slicedBits v)).2.length ≤ s.par.depth.byteOut) :
    ∃ us t, Resampled s us s.nSym t ∧ s.Reaches (t.afterBlock v) := by
  obtain ⟨us, t, hreach, ht, heng, -⟩ := reaches_window he hpos hroom
  rw [State.windowPlace, if_pos hwhole.ge, hv, ← ht.setup.slicedBits, ← ht.setup.pilotOf] at heng
  rw [hwhole] at ht
  refine ⟨us, t, ht, hreach.trans (reaches_afterBlock heng ((congrArg Status.rx ht.gathered.st).trans hst) ?_)⟩
  rw [ht.setup.slicedBits, ht.rx, ht.gathered.byteOut, ht.gathered.par]
  exact hout

/-- What a block leaves: the parser and its bytes, the block count, the tracked clock; the samples within reach stay. -/
theorem Resampled.afterBlock (h : Resampled s us s.nSym t) :
    let q := s.rx.feed (s.slicedBits v)
    let clock := (s.rsMoved s.nSym).track (s.pilotOf v)
    t.afterBlock v = State.withClock { t with
      eng := .run .recv [] (if q.1.sentinel then .confirm s.cfg.confirm.toNat else .receive [])
      st := { s.st with rx := if q.1.sentinel then .confirming else .receiving }
      rx := q.1
      port := { t.port with byteOut := s.port.byteOut ++ q.2 }
      reg := { t.reg with
        count := s.reg.count + BitVec.ofNat 64 q.2.length
        rxBlocks := s.reg.rxBlocks + 1 } } clock := by
  have hratio : t.rs.ratio = s.rs.ratio := h.gathered.ratio
  have hsetup : SameSetup (t.blockUp.parsed (t.slicedBits v)) (s.rsMoved s.nSym) := ⟨h.setup.num, h.setup.cfg, h.setup.cal⟩
  rw [State.afterBlock, State.blockEnd, track_of_clock hsetup h.pos hratio, h.setup.pilotOf, State.parsed, h.setup.slicedBits]
  have hst : t.st = s.st := h.gathered.st
  have hout : t.port.byteOut = s.port.byteOut := h.gathered.byteOut
  have hcount : t.reg.count = s.reg.count := h.gathered.count
  have hblocks : t.reg.rxBlocks = s.reg.rxBlocks := h.gathered.rxBlocks
  simp only [State.blockUp, State.withClock, h.rx, h.setup.cfg, hst, hout, hcount, hblocks]

/-- Settles O43: a whole window leads to its block, a short one on marked input to the end. -/
theorem receiveBlock : Obligations.ReceiveBlock := by
  unfold Obligations.ReceiveBlock
  intro s he hst hcheck hsent hroom w v q clock
  have hpos : 0 < s.nSym := Nat.cast_pos.1 (trackingChecks_of_command (.inl rfl) hcheck).nSym_pos
  refine ⟨fun hwhole hout => ?_, fun hshort heos => ?_⟩
  · obtain ⟨us, t, ht, hreach⟩ := reaches_block he hpos hroom hst hwhole rfl hout
    obtain ⟨k, hk⟩ := runEngine_of_reaches hreach
    refine ⟨k, ?_⟩
    rw [hk, ht.afterBlock]
    refine ⟨rfl, rfl, rfl, rfl, ?_, rfl, rfl, ht.setup.cal, ht.gathered.samples⟩
    rw [ht.gathered.frame]
    rfl
  · obtain ⟨us, t, ht, hreach⟩ := reaches_truncated he hroom hshort heos
    obtain ⟨k, hk⟩ := runEngine_of_reaches hreach
    refine ⟨k, ?_⟩
    rw [hk]
    exact ⟨rfl, ht.gathered.closedAs_st, ht.gathered.byteOut, rfl, rfl, rfl⟩

end

end Sys2Proof.Machine
end

section
/-! PROOFS. RECV's skip and its search for the preamble (44_frame_rx.md R290, R296, R300 to R303, R322). -/

namespace Sys2Proof.Machine

/-! ### First of the largest -/

/-- `b` is the first of the largest values of `f` among the arguments with `p`. -/
structure FirstPeak (f : Nat → Scalar) (p : Nat → Prop) (b : Nat) : Prop where
  mem : p b
  le : ∀ e, p e → f e ≤ f b
  first : ∀ e, p e → e < b → f e < f b

section
variable {f : Nat → Scalar} {p q : Nat → Prop} {b c d : Nat}

theorem FirstPeak.congr (h : FirstPeak f p b) (hpq : ∀ e, p e ↔ q e) : FirstPeak f q b :=
  ⟨(hpq b).1 h.mem, fun e he => h.le e ((hpq e).2 he), fun e he => h.first e ((hpq e).2 he)⟩

/-- The next argument takes the peak's place where its value is larger. -/
theorem FirstPeak.next (h : FirstPeak f (fun e => p e ∧ e < d) b) (hd : p d) :
    FirstPeak f (fun e => p e ∧ e < d + 1) (if f b < f d then d else b) := by
  obtain ⟨⟨hb, hbd⟩, hle, hfirst⟩ := h
  have hcases (e : Nat) (he : p e ∧ e < d + 1) : (p e ∧ e < d) ∨ e = d :=
    (Nat.lt_succ_iff_lt_or_eq.1 he.2).imp_left fun hlt => ⟨he.1, hlt⟩
  split
  case isTrue hlt =>
    refine ⟨⟨hd, d.lt_succ_self⟩, fun e he => ?_, fun e he hed => (hle e ⟨he.1, hed⟩).trans_lt hlt⟩
    obtain hold | rfl := hcases e he
    · exact (hle e hold).trans hlt.le
    · exact le_rfl
  case isFalse hge =>
    refine ⟨⟨hb, Nat.lt_succ_of_lt hbd⟩, fun e he => ?_, fun e he heb => hfirst e ⟨he.1, heb.trans hbd⟩ heb⟩
    obtain hold | rfl := hcases e he
    · exact hle e hold
    · exact not_lt.1 hge

theorem FirstPeak.unique (h : FirstPeak f p b) (k : FirstPeak f p c) : b = c := by
  obtain hlt | heq | hlt := lt_trichotomy b c
  · exact absurd (h.le c k.mem) (k.first b h.mem hlt).not_ge
  · exact heq
  · exact absurd (k.le b h.mem) (h.first c k.mem hlt).not_ge

end

section
variable {s t u v x : State} {us : List SampleUnit} {n d d0 : Nat} {ph : Phase} {unit : SampleUnit} {rest : List SampleUnit}

/-! ### The skip -/

/-- The samples in SMP_IN (20_memory.md R114). -/
def State.samplesIn (s : State) : List Scalar := sampleStream s.num s.pcmEn s.sigma s.pcmLo s.port.smpIn

theorem samplesIn_cons (hin : s.port.smpIn = unit :: rest) :
    s.samplesIn = s.completed unit ++ (s.recvUnit unit rest).samplesIn := by
  rw [State.samplesIn, hin, sampleStream_cons]
  rfl

theorem samplesIn_nil (hin : s.port.smpIn = []) : s.samplesIn = [] := by
  rw [State.samplesIn, hin, sampleStream]

/-- One step of the skip takes one unit (44_frame_rx.md R290). -/
theorem reaches_skipUnit (he : s.eng = .run .recv [] (.skip (n + 1))) (hin : s.port.smpIn = unit :: rest)
    (hroom : s.DumpRoom) :
    s.Reaches { s.recvUnit unit rest with eng := .run .recv [] (.skip (n + 1 - (s.completed unit).length)) } := by
  refine reaches_of_step fun b => ?_
  have hpop := popSample_recv_cons (s := { s with burst := b }) hin hroom
  rw [engineStep_phase (s := { s with burst := b }) he, State.stepPhase, State.stepSkip, hpop]
  have hcompleted : State.completed { s with burst := b } unit = s.completed unit := rfl
  have hkeep : (s.recvUnit unit rest).eng = .run .recv [] (.skip (n + 1)) := he
  rw [hcompleted]
  obtain hnone | ⟨y, hy⟩ := completed_cases s unit
  · rw [hnone, List.length_nil, Nat.sub_zero, ← hkeep]; rfl
  · rw [hy]
    exact congrArg some (load_run (s := State.recvUnit { s with burst := b } unit rest) he _ _)

/-- The skip takes its samples, or empties SMP_IN. -/
theorem reaches_skipped (he : s.eng = .run .recv [] (.skip n)) (hroom : s.DumpRoom) :
    ∃ us t m, s.Reaches t ∧ Drew s us t ∧ t.eng = .run .recv [] (.skip m) ∧ t.rx = s.rx ∧ t.rs = s.rs ∧
      ((m = 0 ∧ n ≤ s.samplesIn.length ∧ t.samplesIn = s.samplesIn.drop n) ∨
        (0 < m ∧ s.samplesIn.length < n ∧ t.port.smpIn = [])) := by
  generalize hin : s.port.smpIn = l
  induction l generalizing s n with
  | nil =>
    have hnil := samplesIn_nil hin
    refine ⟨[], s, n, .refl s, (Gathered.refl s).toDrew, he, rfl, rfl, ?_⟩
    rw [hnil]
    exact n.eq_zero_or_pos.imp (fun h => ⟨h, h.le, List.drop_nil.symm⟩) fun h => ⟨h, h, hin⟩
  | cons unit rest ih =>
    cases n with
    | zero => exact ⟨[], s, 0, .refl s, (Gathered.refl s).toDrew, he, rfl, rfl, .inl ⟨rfl, Nat.zero_le _, rfl⟩⟩
    | succ k =>
      let w := { s.recvUnit unit rest with eng := Eng.run .recv [] (.skip (k + 1 - (s.completed unit).length)) }
      have hdrew : Drew s [unit] w := ⟨rfl, hin⟩
      obtain ⟨us, t, m, hreach, ht, heng, hrx, hrs, hend⟩ := ih (s := w) rfl (hdrew.room hroom) rfl
      refine ⟨_, t, m, (reaches_skipUnit he hin hroom).trans hreach, hdrew.trans ht, heng, hrx, hrs, ?_⟩
      have hsamples : s.samplesIn = s.completed unit ++ w.samplesIn := samplesIn_cons hin
      have hone : (s.completed unit).length ≤ k + 1 := by
        obtain hnone | ⟨y, hy⟩ := completed_cases s unit
        · rw [hnone]; exact Nat.zero_le _
        · rw [hy]; exact Nat.le_add_left 1 k
      rw [hsamples, List.length_append, List.drop_append, List.drop_eq_nil_of_le hone, List.nil_append]
      exact hend.imp (fun ⟨hm, hle, hdrop⟩ => ⟨hm, by omega, hdrop⟩) fun ⟨hm, hlt, hempty⟩ => ⟨hm, by omega, hempty⟩

/-- The state as the search begins (44_frame_rx.md R290, R300). -/
def State.searching (s : State) : State := { s with eng := .run .recv [] .search, rx := { s.rx with d := 0 } }

theorem reaches_searching (he : s.eng = .run .recv [] (.skip 0)) : s.Reaches s.searching := reaches_of_step fun b => by
  rw [engineStep_phase (s := { s with burst := b }) he]
  exact congrArg some (load_run (s := { s with burst := b, rx := { s.rx with d := 0 } }) he _ _)

theorem popSample_eos (hin : s.port.smpIn = []) (heos : s.port.smpInEos = true) : s.popSample true = .eos := by
  rw [State.popSample, popSmp_nil hin, if_pos heos]

/-- An input that ends in the skip ends RECV (44_frame_rx.md R290, R322). -/
theorem reaches_skipEnd (he : s.eng = .run .recv [] (.skip n)) (hn : 0 < n) (hin : s.port.smpIn = [])
    (heos : s.port.smpInEos = true) : s.Reaches (s.closedAs .noCarrier .noCarrier) := by
  obtain ⟨k, rfl⟩ := Nat.exists_eq_add_of_lt hn
  refine reaches_end he fun b => ?_
  rw [Nat.zero_add, State.stepPhase, State.stepSkip, popSample_eos (s := { s with burst := b }) hin heos]
  rfl

/-! ### Correlations -/

/-- Corr(d) over the samples within reach. -/
def State.corrAhead (s : State) (d : Nat) : Scalar := s.corrOver s.allSamples d

theorem SameSetup.corrOver (h : SameSetup x s) (y : List Scalar) (d : Nat) : x.corrOver y d = s.corrOver y d := by
  have e : { s with num := x.num, cfg := x.cfg } = s := by rw [h.num, h.cfg]
  rw [← e]
  rfl

theorem SameSetup.nPre (h : SameSetup x s) : x.nPre = s.nPre := by
  rw [State.nPre, h.nSym, State.nTrain, h.cfg]
  rfl

theorem SameSetup.searchLimit (h : SameSetup x s) : x.searchLimit = s.searchLimit := by
  rw [State.searchLimit, h.cfg]
  rfl

theorem SameSetup.theta (h : SameSetup x s) : x.theta = s.theta := by
  rw [State.theta, h.cfg]
  rfl

theorem window_eq_take {r : Resampler} (h : d + n ≤ r.buf.length) : r.window d n = (r.buf.drop d).take n := by
  have hlen : (r.window d n).length = n := by rw [Resampler.window, List.length_map, List.length_range]
  have htake : ((r.buf.drop d).take n).length = n := by rw [List.length_take, List.length_drop]; omega
  refine List.ext_getElem (hlen.trans htake.symm) fun i hi _ => ?_
  rw [hlen] at hi
  have hget : r.at ((d + i : Nat) : Int) = r.buf[d + i] := by
    rw [Resampler.at, if_neg (by omega), Int.toNat_natCast, List.getElem?_eq_getElem (by omega), Option.getD_some]
  simp only [Resampler.window, List.getElem_map, List.getElem_range, List.getElem_take, List.getElem_drop, hget]

/-- A correlation whose samples are in `rs.buf` is the one over the samples within reach. -/
theorem Gathered.corr (h : Gathered s us u) (hbuf : d + s.nPre ≤ u.rs.buf.length) : u.corr d = s.corrAhead d := by
  have hpre := h.setup.nPre
  have hdrop : d ≤ u.rs.buf.length := by omega
  have htake : s.nPre ≤ (u.rs.buf.drop d).length := by rw [List.length_drop]; omega
  rw [State.corrAhead, ← h.samples, ← h.setup.corrOver, State.corr, hpre, window_eq_take hbuf, State.corrOver, hpre,
    State.allSamples, List.drop_append_of_le_length hdrop, List.take_append_of_le_length htake]

theorem Gathered.corrAhead (h : Gathered s us u) : u.corrAhead = s.corrAhead := by
  funext d
  rw [State.corrAhead, h.setup.corrOver, h.samples]
  rfl

theorem corrNeed_lt : s.corrNeed d < s.rs.buf.length ↔ d + s.nPre ≤ s.rs.buf.length := by
  rw [State.corrNeed]
  omega

/-- RECV takes the units the next correlation needs, or empties SMP_IN. -/
theorem reaches_correlated
    (hstep : ∀ u v, SameSetup u s → u.rx = s.rx → u.eng = s.eng → u.fetch true (u.corrNeed u.rx.d) = .progress v →
      u.engineStep = some v) (hroom : s.DumpRoom) :
    ∃ us u, s.Reaches u ∧ Gathered s us u ∧ u.eng = s.eng ∧ u.rx = s.rx ∧
      ((s.rx.d + s.nPre ≤ s.allSamples.length ∧ s.rx.d + s.nPre ≤ u.rs.buf.length) ∨
        (s.allSamples.length < s.rx.d + s.nPre ∧ u.port.smpIn = [] ∧ u.rs.buf = s.allSamples)) := by
  obtain ⟨us, u, hreach, hu, heng, hrx, hend⟩ := reaches_gathered (s := s) (i := s.corrNeed s.rx.d)
    (fun u v hsetup hrx _ heng hf => hstep u v hsetup hrx heng (by
      rwa [hrx, State.corrNeed, hsetup.nPre])) hroom
  refine ⟨us, u, hreach, hu, heng, hrx, ?_⟩
  have hneed : s.corrNeed s.rx.d < u.rs.buf.length ↔ s.rx.d + s.nPre ≤ u.rs.buf.length := by
    rw [State.corrNeed]
    omega
  have hlen : u.rs.buf.length ≤ s.allSamples.length := by
    rw [← hu.samples, State.allSamples, List.length_append]
    exact Nat.le_add_right ..
  rw [hneed] at hend
  obtain hready | hshort := le_or_gt (s.rx.d + s.nPre) u.rs.buf.length
  · exact .inl ⟨hready.trans hlen, hready⟩
  · have hempty := hend.resolve_left hshort.not_ge
    have hall : u.rs.buf = s.allSamples := by
      rw [← hu.samples, State.allSamples]
      exact ((congrArg _ (samplesIn_nil hempty)).trans (List.append_nil _)).symm
    exact .inr ⟨hall ▸ hshort, hempty, hall⟩

/-! ### The threshold search -/

/-- The search's variables at an offset that reaches the threshold (44_frame_rx.md R300). -/
def RxCodec.crossedAt (r : RxCodec) (d : Nat) (c : Scalar) : RxCodec := { r with d0 := d, dbest := d, cbest := c, d := d + 1 }

/-- The search's next offset. -/
def RxCodec.passed (r : RxCodec) : RxCodec := { r with d := r.d + 1 }

/-- One step of the threshold search below W (44_frame_rx.md R300). -/
theorem stepSearch_cases (he : s.eng = .run .recv [] .search) (hd : s.rx.d < s.searchLimit) :
    (∀ v, s.fetch true (s.corrNeed s.rx.d) = .progress v → s.engineStep = some v) ∧
    (s.rx.d + s.nPre ≤ s.rs.buf.length → s.engineStep = some (if s.theta ≤ s.corr s.rx.d
      then { s with eng := .run .recv [] .refine, rx := s.rx.crossedAt s.rx.d (s.corr s.rx.d) }
      else { s with rx := s.rx.passed })) := by
  rw [engineStep_phase he, State.stepPhase, State.stepSearch, if_neg hd.not_ge]
  refine ⟨fun v hf => by rw [hf], fun hready => ?_⟩
  rw [fetch_ready.2 (corrNeed_lt.2 hready)]
  dsimp only
  split
  · exact congrArg some (load_run (s := { s with rx := s.rx.crossedAt s.rx.d (s.corr s.rx.d) }) he _ _)
  · rfl

theorem reaches_searchReady (he : s.eng = .run .recv [] .search) (hd : s.rx.d < s.searchLimit) (hroom : s.DumpRoom) :
    ∃ us u, s.Reaches u ∧ Gathered s us u ∧ u.eng = s.eng ∧ u.rx = s.rx ∧
      ((s.rx.d + s.nPre ≤ s.allSamples.length ∧ s.rx.d + s.nPre ≤ u.rs.buf.length) ∨
        (s.allSamples.length < s.rx.d + s.nPre ∧ u.port.smpIn = [] ∧ u.rs.buf = s.allSamples)) :=
  reaches_correlated (fun u v hsetup hrx heng hf => (stepSearch_cases (heng.trans he) (by
    rwa [hrx, hsetup.searchLimit])).1 v hf) hroom

theorem reaches_searchStep (he : s.eng = .run .recv [] .search) (hd : s.rx.d < s.searchLimit)
    (hy : s.rx.d + s.nPre ≤ s.allSamples.length) (hroom : s.DumpRoom) :
    ∃ us u, s.Reaches u ∧ Gathered s us u ∧ s.rx.d + s.nPre ≤ u.rs.buf.length ∧ u.eng = (if s.theta ≤ s.corrAhead s.rx.d
        then .run .recv [] .refine else .run .recv [] .search) ∧
      u.rx = (if s.theta ≤ s.corrAhead s.rx.d then s.rx.crossedAt s.rx.d (s.corrAhead s.rx.d) else s.rx.passed) := by
  obtain ⟨us, u, hreach, hu, heng, hrx, hend⟩ := reaches_searchReady he hd hroom
  obtain ⟨-, hready⟩ := hend.resolve_right fun h => absurd hy h.1.not_ge
  have hcorr : u.corr s.rx.d = s.corrAhead s.rx.d := hu.corr hready
  have htheta : u.theta = s.theta := hu.setup.theta
  have hlimit : u.rx.d < u.searchLimit := by rwa [hrx, hu.setup.searchLimit]
  have hneed : u.rx.d + u.nPre ≤ u.rs.buf.length := by rwa [hrx, hu.setup.nPre]
  have hstep (b : Nat) := (stepSearch_cases (s := { u with burst := b }) (heng.trans he) hlimit).2 hneed
  let v : State := { u with
    eng := if s.theta ≤ s.corrAhead s.rx.d then .run .recv [] .refine else .run .recv [] .search
    rx := if s.theta ≤ s.corrAhead s.rx.d then s.rx.crossedAt s.rx.d (s.corrAhead s.rx.d) else s.rx.passed }
  refine ⟨us, v, hreach.trans (reaches_of_step fun b => (hstep b).trans ?_), hu.withRx _ _, hready, rfl, rfl⟩
  have hc : State.corr { u with burst := b } u.rx.d = s.corrAhead s.rx.d := by rw [hrx, ← hcorr]; rfl
  have ht : State.theta { u with burst := b } = s.theta := htheta
  dsimp only
  rw [hc, ht, hrx]
  dsimp only [v]
  split
  · rfl
  · rw [← he, ← heng]

/-- An input that ends before the next offset's samples are there ends the search (44_frame_rx.md R300, R322). -/
theorem reaches_exhausted (he : s.eng = .run .recv [] .search) (hd : s.rx.d < s.searchLimit)
    (hy : s.allSamples.length < s.rx.d + s.nPre) (hroom : s.DumpRoom) (heos : s.port.smpInEos = true) :
    ∃ us t, Gathered s us t ∧ t.rx = s.rx ∧ t.port.smpIn = [] ∧ t.rs.buf = s.allSamples ∧
      s.Reaches (t.closedAs .noCarrier .noCarrier) := by
  obtain ⟨us, t, hreach, ht, heng, hrx, hend⟩ := reaches_searchReady he hd hroom
  obtain ⟨-, hin, hbuf⟩ := hend.resolve_left fun h => absurd h.1 hy.not_ge
  refine ⟨us, t, ht, hrx, hin, hbuf, hreach.trans (reaches_end (heng.trans he) fun b => ?_)⟩
  have heos := ht.eos.trans heos
  have hlimit : t.rx.d < t.searchLimit := by rwa [hrx, ht.setup.searchLimit]
  have hneed : (t.rs.buf.length : Int) ≤ t.corrNeed t.rx.d := by
    rw [State.corrNeed, hrx, ht.setup.nPre, hbuf]
    omega
  have hfetch : State.fetch { t with burst := b } true (t.corrNeed t.rx.d) = .eos :=
    (fetch_recv_nil (s := { t with burst := b }) hin hneed).trans (if_pos heos)
  have hopen : ¬State.searchLimit { t with burst := b } ≤ t.rx.d := hlimit.not_ge
  have hcorr : State.corrNeed { t with burst := b } t.rx.d = t.corrNeed t.rx.d := rfl
  rw [State.stepPhase, State.stepSearch, if_neg hopen, hcorr, hfetch]
  rfl

/-- Offsets below the threshold are passed over (44_frame_rx.md R300). -/
theorem reaches_passed {k : Nat} (he : s.eng = .run .recv [] .search) (hd : s.rx.d + k ≤ s.searchLimit)
    (hy : k = 0 ∨ s.rx.d + k + s.nPre ≤ s.allSamples.length + 1)
    (hlow : ∀ d, s.rx.d ≤ d → d < s.rx.d + k → s.corrAhead d < s.theta) (hroom : s.DumpRoom) :
    ∃ us u, s.Reaches u ∧ Gathered s us u ∧ u.eng = .run .recv [] .search ∧ u.rx = { s.rx with d := s.rx.d + k } := by
  induction k generalizing s with
  | zero => exact ⟨[], s, .refl s, .refl s, he, rfl⟩
  | succ k ih =>
    have hone := hlow s.rx.d le_rfl (by omega)
    obtain ⟨us, u, hreach, hu, -, heng, hrx⟩ := reaches_searchStep he (by omega) (by omega) hroom
    rw [if_neg hone.not_ge] at heng hrx
    have hd' : u.rx.d = s.rx.d + 1 := by rw [hrx]; rfl
    obtain ⟨vs, v, hreach', hv, heng', hrx'⟩ := ih (s := u) heng (by rw [hd', hu.setup.searchLimit]; omega)
      (by rw [hd', hu.samples, hu.setup.nPre]; omega)
      (fun d hle hlt => by
        rw [hu.corrAhead, hu.setup.theta]
        exact hlow d (by omega) (by omega)) (hu.room hroom)
    refine ⟨_, v, hreach.trans hreach', hu.trans hv, heng', ?_⟩
    rw [hrx', hrx, RxCodec.passed, Nat.add_assoc, Nat.add_comm 1 k]

/-- A search without a crossing ends RECV (44_frame_rx.md R300, R322). -/
theorem reaches_noCarrier (he : s.eng = .run .recv [] .search)
    (hlow : ∀ d, s.rx.d ≤ d → d < s.searchLimit → d + s.nPre ≤ s.allSamples.length → s.corrAhead d < s.theta)
    (hroom : s.DumpRoom) (heos : s.port.smpInEos = true) :
    ∃ us t, Gathered s us t ∧ s.Reaches (t.closedAs .noCarrier .noCarrier) := by
  let k := min s.searchLimit (s.allSamples.length + 1 - s.nPre) - s.rx.d
  obtain hlimit | hlimit := le_or_gt s.searchLimit s.rx.d
  · refine ⟨[], s, .refl s, reaches_end he fun b => ?_⟩
    exact if_pos (show State.searchLimit { s with burst := b } ≤ s.rx.d from hlimit)
  · obtain ⟨us, u, hreach, hu, heng, hrx⟩ := reaches_passed (k := k) he (by omega) (by omega)
      (fun d hle hlt => hlow d hle (by omega) (by omega)) hroom
    have hd : u.rx.d = s.rx.d + k := by rw [hrx]
    obtain hend | hend := le_or_gt u.searchLimit u.rx.d
    · refine ⟨us, u, hu, hreach.trans (reaches_end heng fun b => ?_)⟩
      exact if_pos (show State.searchLimit { u with burst := b } ≤ u.rx.d from hend)
    · obtain ⟨vs, t, ht, -, -, -, hreach'⟩ := reaches_exhausted heng hend
        (by rw [hu.setup.searchLimit] at hend; rw [hd, hu.samples, hu.setup.nPre]; omega) (hu.room hroom)
        (hu.eos.trans heos)
      exact ⟨_, t, hu.trans ht, hreach.trans hreach'⟩

/-- The search comes to its first offset that reaches the threshold (44_frame_rx.md R300). -/
theorem reaches_crossing (he : s.eng = .run .recv [] .search) (hle : s.rx.d ≤ d0) (hd : d0 < s.searchLimit)
    (hy : d0 + s.nPre ≤ s.allSamples.length) (hlow : ∀ d, s.rx.d ≤ d → d < d0 → s.corrAhead d < s.theta)
    (hhigh : s.theta ≤ s.corrAhead d0) (hroom : s.DumpRoom) :
    ∃ us u, s.Reaches u ∧ Gathered s us u ∧ d0 + s.nPre ≤ u.rs.buf.length ∧ u.eng = .run .recv [] .refine ∧
      u.rx = s.rx.crossedAt d0 (s.corrAhead d0) := by
  obtain ⟨k, rfl⟩ := Nat.exists_eq_add_of_le hle
  obtain ⟨us, u, hreach, hu, heng, hrx⟩ := reaches_passed (k := k) he hd.le (by omega) hlow hroom
  have hd' : u.rx.d = s.rx.d + k := by rw [hrx]
  have htheta := hu.setup.theta
  obtain ⟨vs, v, hreach', hv, hbuf, heng', hrx'⟩ := reaches_searchStep heng (by rwa [hd', hu.setup.searchLimit])
    (by rwa [hd', hu.samples, hu.setup.nPre]) (hu.room hroom)
  rw [hd', hu.setup.nPre] at hbuf
  rw [hd', htheta, hu.corrAhead, if_pos hhigh] at heng' hrx'
  exact ⟨_, v, hreach.trans hreach', hu.trans hv, hbuf, heng', by rw [hrx', hrx]; rfl⟩

/-! ### The refinement -/

/-- The offsets the refinement from `d0` compares: below W, within the input, less than one preamble on (44_frame_rx.md
R300). -/
def State.InReach (s : State) (d0 d : Nat) : Prop :=
  d0 ≤ d ∧ d < d0 + s.nPre ∧ d < s.searchLimit ∧ d + s.nPre ≤ s.allSamples.length

/-- The state after the search found its peak (44_frame_rx.md R302, R303). -/
def State.atPeak (s : State) : State :=
  { s with
    eng := .run .recv [] .calibrate
    reg := { s.reg with detPeak := bits64 s.rx.cbest, detOffset := BitVec.ofNat 64 s.rx.dbest }
    st := { s.st with rx := .calibrating } }

theorem load_peakFound (he : s.eng = .run .recv [] .refine) : s.peakFound = s.atPeak :=
  load_run (s := { s with
    reg := { s.reg with detPeak := bits64 s.rx.cbest, detOffset := BitVec.ofNat 64 s.rx.dbest }
    st := { s.st with rx := .calibrating } }) he _ _

/-- The search's variables after the refinement compared an offset. -/
def RxCodec.refined (r : RxCodec) (c : Scalar) : RxCodec :=
  if r.cbest < c then { r with dbest := r.d, cbest := c, d := r.d + 1 } else r.passed

/-- One step of the refinement with offsets left (44_frame_rx.md R300). -/
theorem stepRefine_cases (he : s.eng = .run .recv [] .refine) (hd : s.rx.d < s.rx.d0 + s.nPre)
    (hlimit : s.rx.d < s.searchLimit) :
    (∀ v, s.fetch true (s.corrNeed s.rx.d) = .progress v → s.engineStep = some v) ∧
    (s.fetch true (s.corrNeed s.rx.d) = .eos → s.engineStep = some s.atPeak) ∧
    (s.rx.d + s.nPre ≤ s.rs.buf.length → s.engineStep = some { s with rx := s.rx.refined (s.corr s.rx.d) }) := by
  rw [engineStep_phase he, State.stepPhase, State.stepRefine, if_neg (not_or.2 ⟨hd.not_ge, hlimit.not_ge⟩)]
  refine ⟨fun v hf => by rw [hf], fun hf => by rw [hf, load_peakFound he], fun hready => ?_⟩
  rw [fetch_ready.2 (corrNeed_lt.2 hready), RxCodec.refined]
  dsimp only
  split <;> rfl

theorem reaches_refineEnd (he : s.eng = .run .recv [] .refine) (h : s.rx.d0 + s.nPre ≤ s.rx.d ∨ s.searchLimit ≤ s.rx.d) :
    s.Reaches s.atPeak := reaches_of_step fun b => by
  rw [engineStep_phase (s := { s with burst := b }) he]
  exact (if_pos (show s.rx.d0 + State.nPre { s with burst := b } ≤ s.rx.d ∨ State.searchLimit { s with burst := b } ≤ s.rx.d
    from h)).trans (congrArg some (load_peakFound (s := { s with burst := b }) he))

/-- The search's variables are those of the first of the largest correlations up to the offset `d` (44_frame_rx.md R300). -/
structure Refining (s : State) (d0 : Nat) (r : RxCodec) : Prop where
  start : r.d0 = d0
  peak : FirstPeak s.corrAhead (fun e => s.InReach d0 e ∧ e < r.d) r.dbest
  cbest : r.cbest = s.corrAhead r.dbest

theorem Refining.next {r : RxCodec} (h : Refining s d0 r) (hd : s.InReach d0 r.d) :
    Refining s d0 (r.refined (s.corrAhead r.d)) := by
  have hnext := h.peak.next hd
  rw [← h.cbest] at hnext
  unfold RxCodec.refined
  split
  case isTrue hlt =>
    rw [if_pos hlt] at hnext
    exact ⟨h.start, hnext, rfl⟩
  case isFalse hge =>
    rw [if_neg hge] at hnext
    exact ⟨h.start, hnext, h.cbest⟩

theorem Refining.of_gathered {r : RxCodec} (h : Refining s d0 r) (hu : Gathered s us u) : Refining u d0 r where
  start := h.start
  peak := by
    rw [hu.corrAhead]
    exact h.peak.congr fun e => by
      rw [State.InReach, State.InReach, hu.setup.nPre, hu.setup.searchLimit, hu.samples]
  cbest := by rw [hu.corrAhead]; exact h.cbest

theorem Refining.closed {r : RxCodec} (h : Refining s d0 r) (hall : ∀ e, s.InReach d0 e → e < r.d) :
    FirstPeak s.corrAhead (s.InReach d0) r.dbest :=
  h.peak.congr fun e => ⟨And.left, fun he => ⟨he, hall e he⟩⟩

/-- The parser of one codec beside the search's variables and the gains of another. -/
def RxCodec.alongside (r x : RxCodec) : RxCodec :=
  { x with rbits := r.rbits, hdr := r.hdr, remaining := r.remaining, sentinel := r.sentinel }

theorem refined_alongside (r : RxCodec) (c : Scalar) : r.refined c = r.alongside (r.refined c) := by
  unfold RxCodec.refined
  split <;> rfl

variable {ds : Nat}

/-- The search from `s`, refining from `d0` on, found its peak at `ds` in `u`. -/
structure Peaked (s : State) (d0 : Nat) (us : List SampleUnit) (ds : Nat) (u : State) : Prop where
  gathered : Gathered s us u
  peak : FirstPeak s.corrAhead (s.InReach d0) ds
  dbest : u.rx.dbest = ds
  cbest : u.rx.cbest = s.corrAhead ds
  buf : ds + s.nPre ≤ u.rs.buf.length
  parser : u.rx = s.rx.alongside u.rx

theorem Peaked.of_gathered {vs : List SampleUnit} (h : Gathered s us u) (hrx : u.rx = s.rx.alongside u.rx)
    (k : Peaked u d0 vs ds v) : Peaked s d0 (us ++ vs) ds v where
  gathered := h.trans k.gathered
  peak := h.corrAhead ▸ k.peak.congr fun e => by
    rw [State.InReach, State.InReach, h.setup.nPre, h.setup.searchLimit, h.samples]
  dbest := k.dbest
  cbest := by rw [k.cbest, h.corrAhead]
  buf := h.setup.nPre ▸ k.buf
  parser := by rw [k.parser, hrx]; rfl

/-- The refinement compares the offsets it can, one after another (44_frame_rx.md R300). -/
theorem reaches_peak (he : s.eng = .run .recv [] .refine) (h : Refining s d0 s.rx)
    (hbuf : s.rx.dbest + s.nPre ≤ s.rs.buf.length) (hroom : s.DumpRoom) (heos : s.port.smpInEos = true) :
    ∃ us u ds, s.Reaches u.atPeak ∧ Peaked s d0 us ds u := by
  generalize hk : s.rx.d0 + s.nPre - s.rx.d = k
  induction k generalizing s with
  | zero =>
    refine ⟨[], s, s.rx.dbest, reaches_refineEnd he (.inl (by omega)), .refl s, h.closed fun e hreach => ?_, rfl, h.cbest,
      hbuf, rfl⟩
    obtain ⟨-, hlt, -, -⟩ := hreach
    rw [← h.start] at hlt
    omega
  | succ k ih =>
    have hd : s.rx.d < s.rx.d0 + s.nPre := by omega
    obtain hlimit | hlimit := le_or_gt s.searchLimit s.rx.d
    · refine ⟨[], s, s.rx.dbest, reaches_refineEnd he (.inr hlimit), .refl s, h.closed fun e hreach => ?_, rfl, h.cbest,
        hbuf, rfl⟩
      obtain ⟨-, -, hlt, -⟩ := hreach
      omega
    · have hlast := h.peak.mem.2
      have hopen {u : State} (hsetup : SameSetup u s) (hrx : u.rx = s.rx) :
          u.rx.d < u.rx.d0 + u.nPre ∧ u.rx.d < u.searchLimit := by
        rw [hrx, hsetup.nPre, hsetup.searchLimit]
        exact ⟨hd, hlimit⟩
      obtain ⟨us, u, hreach, hu, heng, hrx, hend⟩ := reaches_correlated (fun u v hsetup hrx heng hf =>
        (stepRefine_cases (heng.trans he) (hopen hsetup hrx).1 (hopen hsetup hrx).2).1 v hf) hroom
      have hstep (b : Nat) := (stepRefine_cases (s := { u with burst := b }) (heng.trans he) (hopen hu.setup hrx).1
        (hopen hu.setup hrx).2).2
      obtain ⟨hy, hready⟩ | ⟨hy, hin, hall⟩ := hend
      · let w : State := { u with rx := s.rx.refined (s.corrAhead s.rx.d) }
        have hw : Gathered s us w := hu.withRx _ _
        have hrefine : u.Reaches w := reaches_of_step fun b => by
          have hc : State.corr { u with burst := b } u.rx.d = s.corrAhead s.rx.d := by
            rw [hrx, ← hu.corr hready]
            rfl
          have hneed : u.rx.d + u.nPre ≤ u.rs.buf.length := by rwa [hrx, hu.setup.nPre]
          rw [(hstep b).2 hneed]
          dsimp only [w]
          rw [hc, hrx]
        have hnext : Refining s d0 w.rx := h.next ⟨h.peak.mem.1.1.trans hlast.le, h.start ▸ hd, hlimit, hy⟩
        have hdnext : w.rx.d = s.rx.d + 1 := by
          dsimp only [w]
          unfold RxCodec.refined
          split <;> rfl
        have hbest := hnext.peak.mem.2
        obtain ⟨vs, v, ds, hreach', hv⟩ := ih (s := w) (heng.trans he) (hnext.of_gathered hw)
          (by rw [hw.setup.nPre]; exact le_trans (by omega) hready) (hw.room hroom) (hw.eos.trans heos)
          (by rw [hnext.start, hw.setup.nPre, ← h.start]; omega)
        exact ⟨_, v, ds, (hreach.trans hrefine).trans hreach', hv.of_gathered hw (refined_alongside ..)⟩
      · have hneed : (u.rs.buf.length : Int) ≤ u.corrNeed u.rx.d := by
          rw [State.corrNeed, hrx, hu.setup.nPre, hall]
          omega
        have heos := hu.eos.trans heos
        have hdone : u.Reaches u.atPeak := reaches_of_step fun b =>
          (hstep b).1 ((fetch_recv_nil (s := { u with burst := b }) hin hneed).trans (if_pos heos))
        have hgrown := hu.buf.length_le
        refine ⟨us, u, s.rx.dbest, hreach.trans hdone, hu, h.closed fun e hreach => ?_, by rw [hrx], by rw [hrx, h.cbest],
          by omega, by rw [hrx]; rfl⟩
        obtain ⟨-, -, -, hle⟩ := hreach
        omega

theorem refining_crossedAt (hd : s.InReach d0 d0) : Refining s d0 (s.rx.crossedAt d0 (s.corrAhead d0)) where
  start := rfl
  peak := ⟨⟨hd, d0.lt_succ_self⟩, fun _ he =>
      (congrArg s.corrAhead (le_antisymm (Nat.le_of_lt_succ he.2) he.1.1)).le,
    fun _ he hlt => absurd he.1.1 hlt.not_ge⟩
  cbest := rfl

/-- The search finds the first of the largest correlations near its first crossing (44_frame_rx.md R300 to R303). -/
theorem reaches_detected (he : s.eng = .run .recv [] .search) (hle : s.rx.d ≤ d0) (hpre : 0 < s.nPre)
    (hd : d0 < s.searchLimit) (hy : d0 + s.nPre ≤ s.allSamples.length)
    (hlow : ∀ d, s.rx.d ≤ d → d < d0 → s.corrAhead d < s.theta) (hhigh : s.theta ≤ s.corrAhead d0) (hroom : s.DumpRoom)
    (heos : s.port.smpInEos = true) : ∃ us u ds, s.Reaches u.atPeak ∧ Peaked s d0 us ds u := by
  obtain ⟨us, u, hreach, hu, hbuf, heng, hrx⟩ := reaches_crossing he hle hd hy hlow hhigh hroom
  have hrefining : Refining u d0 u.rx := by
    rw [hrx]
    exact (refining_crossedAt ⟨le_rfl, Nat.lt_add_of_pos_right hpre, hd, hy⟩).of_gathered hu
  obtain ⟨vs, v, ds, hreach', hv⟩ := reaches_peak heng hrefining (by rw [hrx, hu.setup.nPre]; exact hbuf) (hu.room hroom)
    (hu.eos.trans heos)
  exact ⟨_, v, ds, hreach.trans hreach', hv.of_gathered hu (by rw [hrx]; rfl)⟩

/-- RECV's checks, one by one (45_control.md R355). -/
theorem recvChecks (h : s.checks .recv = true) : s.carrierCheck = true ∧ s.constellationCheck = true ∧
    s.demodCheck = true ∧ s.trainingCheck = true ∧ s.receiverCheck = true := by
  simp only [State.checks, Bool.and_eq_true] at h
  obtain ⟨⟨⟨⟨⟨hcarrier, hconst⟩, hdemod⟩, htrain⟩, hrecv⟩, -⟩ := h
  exact ⟨hcarrier, hconst, hdemod, htrain, hrecv⟩

theorem nPre_pos (h : s.checks .recv = true) : 0 < s.nPre := by
  obtain ⟨-, -, -, htrain, -⟩ := recvChecks h
  simp only [State.trainingCheck, Bool.and_eq_true, decide_eq_true_eq] at htrain
  obtain ⟨⟨hblocks, -⟩, -⟩ := htrain
  exact Nat.mul_pos hblocks (Nat.cast_pos.1 (trackingChecks_of_command (.inl rfl) h).nSym_pos)

/-- What the receiver check says (45_control.md R354). -/
theorem receiverBounds (h : s.checks .recv = true) :
    0 < s.theta ∧ s.theta ≤ 1 ∧ 0 < s.searchLimit ∧ s.cfg.confirm.toNat ≤ s.cfg.silStop.toNat := by
  obtain ⟨-, -, -, -, hrecv⟩ := recvChecks h
  simp only [State.receiverCheck, positive, Bool.and_eq_true, decide_eq_true_eq] at hrecv
  obtain ⟨⟨⟨⟨-, hpos⟩, hone⟩, hlimit⟩, hconfirm⟩ := hrecv
  exact ⟨hpos, hone, hlimit, hconfirm⟩

/-- Settles O39: the threshold search passes the offsets below θ and refines from the first that reaches it. -/
theorem searchFindsPeak : Obligations.SearchFindsPeak := by
  unfold Obligations.SearchFindsPeak
  intro s he hcheck hstart hempty heos hroom y
  refine ⟨fun d0 hlimit hy hhigh hlow => ?_, fun hlow => ?_⟩
  · obtain ⟨us, u, ds, hreach, hu⟩ := reaches_detected he (by omega) (nPre_pos hcheck) hlimit hy
      (fun d _ hd => hlow d hd) hhigh hroom heos
    obtain ⟨hge, hlt, hw, hin⟩ := hu.peak.mem
    obtain ⟨k, hk⟩ := runEngine_of_reaches hreach
    refine ⟨k, ds, hge, hlt, hw, hin, fun d hge hlt hw hin =>
      ⟨hu.peak.le d ⟨hge, hlt, hw, hin⟩, hu.peak.first d ⟨hge, hlt, hw, hin⟩⟩, ?_⟩
    have hst := hu.gathered.st
    rw [hk, ← hst]
    exact ⟨rfl, rfl, hu.dbest, congrArg (BitVec.ofNat 64) hu.dbest, congrArg bits64 hu.cbest, hu.gathered.samples⟩
  · obtain ⟨us, t, ht, hreach⟩ := reaches_noCarrier he (fun d _ hw hin => hlow d hw hin) hroom heos
    obtain ⟨k, hk⟩ := runEngine_of_reaches hreach
    refine ⟨k, ?_⟩
    rw [hk]
    exact ⟨rfl, ht.closedAs_st, ht.byteOut, rfl, rfl, rfl⟩

/-! ### From the acceptance on -/

theorem Drew.withRx (h : Drew s us t) (e : Eng) (r : RxCodec) : Drew s us { t with eng := e, rx := r } where
  frame := by
    have hframe := h.frame
    rw [hframe]
  smpIn := h.smpIn

/-- The skip ends and the search begins over the samples that are left (44_frame_rx.md R290). -/
theorem reaches_searchStart (he : s.eng = .run .recv [] (.skip n)) (hroom : s.DumpRoom) (hbuf : s.rs.buf = [])
    (hlen : n ≤ s.samplesIn.length) :
    ∃ us, ∃ t : State, s.Reaches t.searching ∧ Drew s us t.searching ∧ t.rx = s.rx ∧
      t.searching.allSamples = s.samplesIn.drop n := by
  obtain ⟨us, t, m, hreach, ht, heng, hrx, hrs, hend⟩ := reaches_skipped he hroom
  obtain ⟨rfl, -, hsamples⟩ := hend.resolve_right fun h => absurd hlen h.2.1.not_ge
  have hall : t.searching.allSamples = t.rs.buf ++ t.samplesIn := rfl
  refine ⟨us, t, hreach.trans (reaches_searching heng), ht.withRx _ _, hrx, ?_⟩
  rw [hall, hrs, hbuf, hsamples, List.nil_append]

/-- An input shorter than the skip and one preamble ends RECV with all of it taken (44_frame_rx.md R290, R300, R322). -/
theorem reaches_shortInput (he : s.eng = .run .recv [] (.skip n)) (hroom : s.DumpRoom) (heos : s.port.smpInEos = true)
    (hbuf : s.rs.buf = []) (hd : s.rx.d = 0) (hlimit : 0 < s.searchLimit) (hshort : s.samplesIn.length < n + s.nPre) :
    ∃ us t, Drew s us t ∧ t.rx = s.rx ∧ t.port.smpIn = [] ∧ t.rs.buf = s.samplesIn.drop n ∧
      s.Reaches (t.closedAs .noCarrier .noCarrier) := by
  obtain hlen | hlen := le_or_gt n s.samplesIn.length
  · obtain ⟨us, u, hreach, hu, hrx, hall⟩ := reaches_searchStart he hroom hbuf hlen
    have hkeep : u.searching.rx = s.rx := by rw [State.searching, hrx, ← hd]
    have hd' : u.searching.rx.d = 0 := rfl
    obtain ⟨vs, t, ht, hrx', hin, hbuf', hreach'⟩ := reaches_exhausted (s := u.searching) rfl
      (by rwa [hd', hu.setup.searchLimit]) (by rw [hall, hd', List.length_drop, hu.setup.nPre]; omega) (hu.room hroom)
      (hu.eos.trans heos)
    exact ⟨_, t, hu.trans ht.toDrew, hrx'.trans hkeep, hin, hbuf'.trans hall, hreach.trans hreach'⟩
  · obtain ⟨us, t, m, hreach, ht, heng, hrx, hrs, hend⟩ := reaches_skipped he hroom
    obtain ⟨hm, -, hin⟩ := hend.resolve_left fun h => absurd h.2.1 hlen.not_ge
    refine ⟨us, t, ht, hrx, hin, ?_, hreach.trans (reaches_skipEnd heng hm hin (ht.eos.trans heos))⟩
    rw [hrs, hbuf, List.drop_eq_nil_of_le hlen.le]

/-- RECV accepted and begun. -/
def State.recvBegun (s : State) : State := begun .recv (s.accept .recv)

theorem exec_recv (hidle : s.busy = false) (hcheck : s.checks .recv = true) (h : s.recvBegun.Reaches t)
    (hend : t.eng = .idle) : ∃ k, ∀ b, k ≤ b → exec .recv { s with burst := b } = .next { t with burst := b } :=
  exec_of_reaches (fun b => issued_begun (s := { s with burst := b }) (i := .recv) hidle hcheck) h hend

/-- Settles O38: the skip or the search's first offset finds the input ended. -/
theorem recvNoCarrierOnShortInput : Obligations.RecvNoCarrierOnShortInput := by
  unfold Obligations.RecvNoCarrierOnShortInput
  intro s hidle hcheck heos hroom ys hshort
  obtain ⟨-, -, hlimit, -⟩ := receiverBounds hcheck
  obtain ⟨us, t, ht, hrx, hin, hbuf, hreach⟩ := reaches_shortInput (s := s.recvBegun) (n := s.cfg.skip.toNat) rfl hroom heos
    rfl rfl hlimit hshort
  obtain rfl : s.port.smpIn = us := by
    have hsplit := ht.smpIn
    rwa [hin, List.append_nil] at hsplit
  obtain ⟨k, hexec⟩ := exec_recv hidle hcheck hreach rfl
  refine ⟨k, fun b hb => (hexec b hb).trans (congrArg _ ?_)⟩
  have heng : s.eng = .idle := (busy_eq_false_iff s).1 hidle
  have hcount : (0 : Word) + BitVec.ofNat 64 s.port.smpIn.length = BitVec.ofNat 64 s.port.smpIn.length := BitVec.zero_add _
  rw [← hcount, State.closedAs, ht.frame, hrx, hbuf, heng]
  rfl

end

end Sys2Proof.Machine
end

section
/-! PROOFS. What RECV makes of a frame in exact arithmetic: the training blocks calibrate to gain 1 and ratio 1, a data block
slices to its own bits and leaves the clock as it was (44_frame_rx.md R305 to R308, R312, R330; 42_demodulator.md R232). -/

namespace Sys2Proof.Machine

/-! ### Blocks of a modulated stream -/

section
variable (s : State) {blocks : List (List Cx)} {n : Nat}

theorem modulate_append (xs ys : List (List Cx)) : s.modulate (xs ++ ys) = s.modulate xs ++ s.modulate ys :=
  List.flatMap_append

theorem drop_modulate (hn : n ≤ blocks.length) : (s.modulate blocks).drop (n * s.nSym) = s.modulate (blocks.drop n) := by
  have hlen : (s.modulate (blocks.take n)).length = n * s.nSym := by
    rw [length_modulate, List.length_take, Nat.min_eq_left hn]
  conv_lhs => rw [← List.take_append_drop n blocks, modulate_append]
  exact List.drop_left' hlen

/-- The samples of one block of a modulated stream. -/
theorem take_drop_modulate (hn : n < blocks.length) :
    ((s.modulate blocks).drop (n * s.nSym)).take s.nSym = s.synth blocks[n] := by
  rw [drop_modulate s hn.le, List.drop_eq_getElem_cons hn]
  exact List.take_left' (length_synth s _)

end

/-! ### Bits of a block -/

theorem flatMap_blockIndices {b k : Nat} {bits : List Bool} (hlen : bits.length = k * b) :
    (blockIndices b k bits).flatMap (bitsOfNat b) = bits := by
  induction k generalizing bits with
  | zero => rw [Nat.zero_mul] at hlen; rw [List.length_eq_zero_iff.1 hlen]; rfl
  | succ k ih =>
    rw [Nat.succ_mul] at hlen
    have hhead : bitsOfNat b (natOfBits (bits.take b)) = bits.take b := by
      have hbits := bitsOfNat_natOfBits (bits.take b)
      rwa [List.length_take, Nat.min_eq_left (by omega)] at hbits
    rw [blockIndices, List.flatMap_cons, hhead, ih (by rw [List.length_drop]; omega), List.take_append_drop]

theorem blockIndices_lt {b k i : Nat} {bits : List Bool} (hi : i ∈ blockIndices b k bits) : i < 2 ^ b := by
  induction k generalizing bits with
  | zero => cases hi
  | succ k ih =>
    obtain rfl | hi := List.mem_cons.1 hi
    · exact (natOfBits_lt _).trans_le (Nat.pow_le_pow_right two_pos (List.length_take_le ..))
    · exact ih hi

@[simp] theorem length_blockIndices (b k : Nat) (bits : List Bool) : (blockIndices b k bits).length = k := by
  induction k generalizing bits with
  | zero => rfl
  | succ k ih => rw [blockIndices, List.length_cons, ih]

section
variable {s x : State} {k n : Nat} {z : Cx} {bits : List Bool}

/-! ### The premises -/

/-- What RECV's decoding needs of the setup: exact arithmetic, orthogonal carriers, the angle 0 of positive reals, and its
checks (44_frame_rx.md R330). -/
structure Clean (s : State) : Prop where
  exact : s.num.Exact
  orthogonal : s.orthogonal = true
  arg : ∀ x : Scalar, 0 < x → s.num.argTurn ⟨x, 0⟩ = 0
  checks : s.checks .recv = true

/-- The arithmetic, the configuration and the parameters are the same in both states. -/
structure SameConfig (x s : State) : Prop where
  num : x.num = s.num
  cfg : x.cfg = s.cfg
  par : x.par = s.par

theorem SameConfig.trans {y : State} (h : SameConfig x s) (k : SameConfig s y) : SameConfig x y :=
  ⟨h.num.trans k.num, h.cfg.trans k.cfg, h.par.trans k.par⟩

theorem SameConfig.clean (h : SameConfig x s) (hs : Clean s) : Clean x := by
  have e : { s with num := x.num, cfg := x.cfg, par := x.par } = s := by rw [h.num, h.cfg, h.par]
  rw [← e] at hs
  exact ⟨hs.exact, hs.orthogonal, hs.arg, hs.checks⟩

theorem SameConfig.synth (h : SameConfig x s) : x.synth = s.synth := by
  have e : { s with num := x.num, cfg := x.cfg } = s := by rw [h.num, h.cfg]
  rw [← e]
  rfl

theorem SameConfig.blockSymbols (h : SameConfig x s) : x.blockSymbols = s.blockSymbols := by
  have e : { s with cfg := x.cfg } = s := by rw [h.cfg]
  rw [← e]
  rfl

theorem SameConfig.blockSamples (h : SameConfig x s) : x.blockSamples = s.blockSamples := by
  funext blocks
  rw [State.blockSamples, State.modulate, h.synth, h.blockSymbols]
  rfl

theorem SameConfig.preamble (h : SameConfig x s) : x.preamble = s.preamble := by
  have e : { s with num := x.num, cfg := x.cfg } = s := by rw [h.num, h.cfg]
  rw [← e]
  rfl

theorem length_blockSymbols : (s.blockSymbols bits).length = s.nCar := by
  rw [State.blockSymbols, List.length_map, length_blockIndices]

section
variable (h : Clean s)
include h

theorem Clean.nSym_pos : 0 < s.nSym := Nat.cast_pos.1 (trackingChecks_of_command (.inl rfl) h.checks).nSym_pos

theorem Clean.pilot_lt : s.pilot < s.nCar := by
  obtain ⟨-, -, hdemod, -⟩ := recvChecks h.checks
  simp only [State.demodCheck, Bool.and_eq_true, decide_eq_true_eq] at hdemod
  obtain ⟨⟨hpilot, -⟩, -⟩ := hdemod
  exact hpilot

theorem Clean.blockBits_pos : 0 < s.blockBits := by
  obtain ⟨-, hconst, -⟩ := recvChecks h.checks
  simp only [State.constellationCheck, Bool.and_eq_true, decide_eq_true_eq] at hconst
  obtain ⟨⟨⟨hbit, -⟩, -⟩, -⟩ := hconst
  exact Nat.mul_pos (Nat.zero_lt_of_lt h.pilot_lt) hbit

theorem Clean.slice_point {i : Nat} (hi : i < 2 ^ s.nBit) : s.slice (s.point i) = i := by
  obtain ⟨-, hconst, -⟩ := recvChecks h.checks
  exact Sys2Proof.Machine.slice_point h.exact hconst hi

theorem Clean.one_cxMul (z : Cx) : s.num.cxMul Cx.one z = z := by
  rw [h.exact.cxMul_eq]
  refine Cx.ext ?_ ?_
  · show 1 * z.re - 0 * z.im = z.re
    rw [one_mul, zero_mul, sub_zero]
  · show 1 * z.im + 0 * z.re = z.im
    rw [one_mul, zero_mul, add_zero]

/-- A number against itself has the angle 0. -/
theorem Clean.argTurn_self (hz : z ≠ Cx.zero) : s.num.argTurn (s.num.cxMul z z.conj) = 0 := by
  have hsquare : s.num.cxMul z z.conj = ⟨z.square, 0⟩ := by
    rw [h.exact.cxMul_eq]
    refine Cx.ext ?_ ?_
    · show z.re * z.re - z.im * -z.im = z.re * z.re + z.im * z.im
      ring
    · show z.re * -z.im + z.im * z.re = 0
      ring
  rw [hsquare]
  exact h.arg _ (Cx.square_pos hz)

/-! ### A data block -/

/-- Sliced, a block's symbols are its bits. -/
theorem Clean.slicedBits (hlen : bits.length = s.blockBits) : s.slicedBits (s.blockSymbols bits) = bits := by
  have hpoint : ∀ i ∈ blockIndices s.nBit s.nCar bits, bitsOfNat s.nBit (s.slice (s.point i)) = bitsOfNat s.nBit i :=
    fun i hi => by rw [h.slice_point (blockIndices_lt hi)]
  rw [State.slicedBits, State.blockSymbols, List.flatMap_map, List.flatMap_congr hpoint, flatMap_blockIndices hlen]

/-- The pilot of a block's symbols is a constellation point: no error. -/
theorem Clean.pilotError : s.pilotError (s.pilotOf (s.blockSymbols bits)) = 0 := by
  have hpilot : s.pilot < (s.blockSymbols bits).length := by rw [length_blockSymbols]; exact h.pilot_lt
  obtain ⟨i, hi, hz⟩ : ∃ i < 2 ^ s.nBit, s.pilotOf (s.blockSymbols bits) = s.point i := by
    have hmem : s.pilotOf (s.blockSymbols bits) ∈ s.blockSymbols bits := by
      rw [State.pilotOf, List.getElem?_eq_getElem hpilot]
      exact List.getElem_mem hpilot
    obtain ⟨i, hi, hz⟩ := List.mem_map.1 hmem
    exact ⟨i, blockIndices_lt hi, hz.symm⟩
  have hslice : s.point (s.slice (s.point i)) = s.point i := by rw [h.slice_point hi]
  rw [hz]
  by_cases hzero : s.point i = Cx.zero
  · exact pilotError_zero (.inl hzero)
  · rw [pilotError_eq_argTurn hzero (by rwa [hslice]), hslice, h.argTurn_self hzero]

/-- Without an error, the tracking update leaves the clock (42_demodulator.md R232). -/
theorem Clean.track (hz : s.pilotError z = 0) : (s.track z).rs = s.rs := by
  have htau : s.timingOffset 0 = 0 := by rw [timingOffset_eq h.exact, zero_mul, zero_div]
  rw [track_eq, hz, htau]
  simp only [h.exact.sub, h.exact.mul, h.exact.div, mul_zero, zero_mul, zero_div, sub_zero, mul_one]

/-- A block under the gains 1 calibrates to its symbols. -/
theorem Clean.calibrated :
    s.calibrated (List.replicate s.nCar Cx.one) (s.synth (s.blockSymbols bits)) = s.blockSymbols bits := by
  have hlen := length_blockSymbols (s := s) (bits := bits)
  rw [State.calibrated, projInvertsSynth s _ h.exact h.orthogonal hlen]
  refine List.ext_getElem (by rw [List.length_zipWith, List.length_replicate, hlen, Nat.min_self]) fun i _ _ => ?_
  rw [List.getElem_zipWith, List.getElem_replicate, h.one_cxMul]

/-! ### The training blocks -/

variable (hpre : (s.rs.buf.drop s.rx.dbest).take s.nPre = s.preamble)
include hpre

/-- The training blocks at the detected preamble project to themselves (44_frame_rx.md R305). -/
theorem Clean.rxTraining (hn : n < s.nTrain) : s.rxTraining n = s.trainBlock n := by
  have hend : n * s.nSym + s.nSym ≤ s.nPre := by
    rw [← Nat.succ_mul]
    exact Nat.mul_le_mul_right _ hn
  have hbuf : s.rx.dbest + s.nPre ≤ s.rs.buf.length := by
    have hlen := congrArg List.length hpre
    rw [length_preamble, List.length_take, List.length_drop] at hlen
    have hpos : 0 < s.nPre := nPre_pos h.checks
    rw [State.nPre] at hlen hpos ⊢
    omega
  have hwindow : s.rs.window (s.rx.dbest + n * s.nSym) s.nSym = s.synth (s.trainBlock n) := by
    have hlt : n < ((List.range s.nTrain).map s.trainBlock).length := by rwa [List.length_map, List.length_range]
    have hblock := take_drop_modulate s hlt
    rw [List.getElem_map, List.getElem_range] at hblock
    rw [window_eq_take (by omega), ← hblock, ← State.preamble, ← hpre, List.drop_take, List.take_take, List.drop_drop,
      Nat.min_eq_left (by omega)]
  have hlen : (s.trainBlock n).length = s.nCar := by rw [State.trainBlock, List.length_map, List.length_range]
  rw [State.rxTraining, hwindow, projInvertsSynth s _ h.exact h.orthogonal hlen]

theorem Clean.cxAt_received (hn : n < s.nTrain) (hk : k < s.nCar) : cxAt s.received n k = s.trainSymbol n k := by
  have hget : s.received[n]? = some (s.trainBlock n) := by
    rw [State.received, List.getElem?_map, List.getElem?_range hn, Option.map_some, h.rxTraining hpre hn]
  rw [cxAt, hget, Option.getD_some, State.trainBlock, List.getElem?_map, List.getElem?_range hk]
  rfl

theorem Clean.trainGain (hk : k < s.nCar) : s.trainGain s.received k = Cx.one := by
  have hone : Cx.one ≠ Cx.zero := by decide
  by_cases hT : ∃ t < s.nTrain, s.trainSymbol t k ≠ Cx.zero
  · rw [trainGain_of_factor h.exact hone (fun t ht => by rw [h.one_cxMul, h.cxAt_received hpre ht hk]) hT]
    norm_num [Cx.square, Cx.one]
  · push Not at hT
    have hzero (t : Nat) (ht : t ∈ List.range s.nTrain) : s.num.normSq (cxAt s.received t k) = 0 := by
      rw [h.cxAt_received hpre (List.mem_range.1 ht) hk, hT t (List.mem_range.1 ht), h.exact.normSq_eq]
      norm_num [Cx.zero]
    rw [State.trainGain, List.map_congr_left hzero, h.exact.sum_eq, List.sum_map_zero]
    exact if_neg (lt_irrefl 0)

theorem Clean.trainGains : s.trainGains = List.replicate s.nCar Cx.one := by
  rw [State.trainGains, List.map_congr_left fun k hk => h.trainGain hpre (List.mem_range.1 hk), List.map_const',
    List.length_range]

theorem Clean.trainError (hn : n < s.nTrain) : s.trainError s.received n = 0 := by
  have hr := h.cxAt_received hpre hn h.pilot_lt
  by_cases hzero : s.trainSymbol n s.pilot = Cx.zero
  · exact trainError_of_zero (.inr hzero)
  · rw [trainError_eq_argTurn (by rwa [hr]) hzero, hr, h.argTurn_self hzero]

/-- The initial clock is the frame's own (44_frame_rx.md R307). -/
theorem Clean.initialRatio : s.initialRatio s.received = 1 := by
  have hN : (s.nSym : Scalar) ≠ 0 := (Nat.cast_pos.2 h.nSym_pos).ne'
  have hdrift : s.drift s.received = 0 := by
    by_cases hL : 2 ≤ s.nTrain
    · have hline (t : Nat) (ht : t < s.nTrain) : s.unwrapped s.received t = 0 + (t : Scalar) * 0 := by
        rw [unwrapped_of_linear h.exact (δ := 0) (by norm_num) (fun n hn => ⟨0, by
          rw [h.trainError hpre hn, h.trainError hpre (by omega)]; norm_num⟩) ht, h.trainError hpre (by omega)]
      rw [drift_of_linear h.exact hL hline, timingOffset_eq h.exact, zero_mul, zero_div]
    · exact if_neg hL
  rw [State.initialRatio, hdrift, h.exact.div, h.exact.add, add_zero, div_self hN]

end

end

end Sys2Proof.Machine
end

section
/-! PROOFS. RECV on a frame, whole or cut in its data or trail: the search finds the preamble, the data blocks left whole are
decoded, and CONFIRMING or a short block ends it (44_frame_rx.md R330, R332). -/

namespace Sys2Proof.Machine

/-! ### The parser beside the search's variables -/

section
variable (r x : RxCodec)

theorem parseByte_alongside (b : Byte) :
    (r.alongside x).parseByte b = ((r.parseByte b).1.alongside x, (r.parseByte b).2) := by
  have hkeep : (r.alongside x).hdr = r.hdr := rfl
  cases hdr : r.hdr with
  | true =>
    by_cases hb : b = 0
    · rw [hb, parseByte_zero hdr, parseByte_zero (hkeep.trans hdr)]; rfl
    · rw [parseByte_header hdr hb, parseByte_header (hkeep.trans hdr) hb]; rfl
  | false => rw [parseByte_payload hdr, parseByte_payload (hkeep.trans hdr)]; rfl

theorem rxBit_alongside (c : Bool) : (r.alongside x).rxBit c = ((r.rxBit c).1.alongside x, (r.rxBit c).2) := by
  by_cases hfull : (r.rbits ++ [c]).length = 8
  · have hparse : r.rxBit c = _ := if_pos hfull
    rw [hparse, ← parseByte_alongside]
    exact if_pos hfull
  · have hwait : r.rxBit c = _ := if_neg hfull
    rw [hwait]
    exact if_neg hfull

/-- The parser neither reads nor writes the search's variables and the gains. -/
theorem feed_alongside (bits : List Bool) :
    (r.alongside x).feed bits = ((r.feed bits).1.alongside x, (r.feed bits).2) := by
  induction bits generalizing r with
  | nil => rfl
  | cons c cs ih =>
    have hkeep : (r.alongside x).sentinel = r.sentinel := rfl
    cases hs : r.sentinel with
    | true => rw [feed_of_sentinel hs, feed_of_sentinel (hkeep.trans hs)]
    | false => rw [feed_cons hs, feed_cons (hkeep.trans hs), rxBit_alongside, ih]

theorem feed_gains (bits : List Bool) : (r.feed bits).1.gains = r.gains :=
  congrArg (fun q => q.1.gains) (feed_alongside r r bits)

end

section
variable {s t u : State} {j m n : Nat} {bits : List Bool} {rest : List Scalar} {us : List SampleUnit}

/-! ### Decoding at the frame's own clock -/

/-- RECV's clock stands at sample `j` with the ratio 1, its gains are 1, and its input is marked. -/
structure Locked (s : State) (j : Nat) : Prop where
  clean : Clean s
  pos : s.rs.pos = (j : Scalar)
  ratio : s.rs.ratio = 1
  gains : s.rx.gains = List.replicate s.nCar Cx.one
  eos : s.port.smpInEos = true
  room : s.DumpRoom

theorem Locked.rsAhead (h : Locked s j) (n : Nat) : s.rsAhead n = (s.allSamples.drop j).take n := by
  rw [State.rsAhead, h.ratio, h.pos, rsOutputs_identity h.clean.exact]

/-- RECV stands before a block, or in CONFIRMING once the sentinel is decoded (44_frame_rx.md R312). -/
structure State.Stands (s : State) : Prop where
  eng : s.eng = .run .recv [] (if s.rx.sentinel then .confirm s.cfg.confirm.toNat else .receive [])
  rx : s.st.rx = if s.rx.sentinel then .confirming else .receiving

/-- From `s` to `t` RECV decoded `m` blocks with the bits `bits`. -/
structure Decoded (s : State) (bits : List Bool) (m : Nat) (t : State) : Prop where
  config : SameConfig t s
  samples : t.allSamples = s.allSamples
  stands : t.Stands
  st : t.st = { s.st with rx := t.st.rx }
  rx : t.rx = (s.rx.feed bits).1
  byteOut : t.port.byteOut = s.port.byteOut ++ (s.rx.feed bits).2
  count : t.reg.count = s.reg.count + BitVec.ofNat 64 (s.rx.feed bits).2.length
  rxBlocks : t.reg.rxBlocks = s.reg.rxBlocks + BitVec.ofNat 64 m
  detOffset : t.reg.detOffset = s.reg.detOffset
  detPeak : t.reg.detPeak = s.reg.detPeak

theorem decoded_nil (h : s.Stands) : Decoded s [] 0 s where
  config := ⟨rfl, rfl, rfl⟩
  samples := rfl
  stands := h
  st := rfl
  rx := rfl
  byteOut := (List.append_nil _).symm
  count := (BitVec.add_zero _).symm
  rxBlocks := (BitVec.add_zero _).symm
  detOffset := rfl
  detPeak := rfl

theorem Decoded.trans {xs ys : List Bool} (h : Decoded s xs m t) (k : Decoded t ys n u) :
    Decoded s (xs ++ ys) (m + n) u where
  config := k.config.trans h.config
  samples := k.samples.trans h.samples
  stands := k.stands
  st := by rw [k.st, h.st]
  rx := by rw [k.rx, h.rx, feed_append]
  byteOut := by rw [k.byteOut, h.byteOut, h.rx, feed_append, List.append_assoc]
  count := by rw [k.count, h.count, h.rx, feed_append, List.length_append, BitVec.ofNat_add, BitVec.add_assoc]
  rxBlocks := by rw [k.rxBlocks, h.rxBlocks, BitVec.ofNat_add, BitVec.add_assoc]
  detOffset := k.detOffset.trans h.detOffset
  detPeak := k.detPeak.trans h.detPeak

/-- A block at the frame's own clock decodes to its bits and leaves the clock on the next block. -/
theorem reaches_decodedBlock (h : Locked s j) (hstands : s.Stands) (hopen : s.rx.sentinel = false)
    (hbits : bits.length = s.blockBits) (hahead : s.allSamples.drop j = s.synth (s.blockSymbols bits) ++ rest)
    (hout : s.port.byteOut.length + (s.rx.feed bits).2.length ≤ s.par.depth.byteOut) :
    ∃ t, s.Reaches t ∧ Locked t (j + s.nSym) ∧ Decoded s bits 1 t := by
  obtain ⟨heng, hst⟩ := hstands
  rw [hopen] at heng hst
  have hwindow : s.rsAhead s.nSym = s.synth (s.blockSymbols bits) := by
    rw [h.rsAhead, hahead, List.take_left' (length_synth s _)]
  have hslice := h.clean.slicedBits hbits
  obtain ⟨us, t, ht, hreach⟩ := reaches_block (v := s.blockSymbols bits) heng h.clean.nSym_pos h.room hst
    (by rw [hwindow, length_synth]) (by rw [hwindow, h.gains, h.clean.calibrated]) (by rwa [hslice])
  have hafter := ht.afterBlock (v := s.blockSymbols bits)
  rw [hslice] at hafter
  have hmoved : SameConfig (s.rsMoved s.nSym) s := ⟨rfl, rfl, rfl⟩
  have hsetup : SameSetup (s.rsMoved s.nSym) s := ⟨rfl, rfl, rfl⟩
  have hclock : ((s.rsMoved s.nSym).track (s.pilotOf (s.blockSymbols bits))).rs = (s.rsMoved s.nSym).rs :=
    (hmoved.clean h.clean).track (by rw [hsetup.pilotError, h.clean.pilotError])
  have hconfig : SameConfig (t.afterBlock (s.blockSymbols bits)) s := by
    rw [hafter]
    exact ⟨ht.setup.num, ht.setup.cfg, ht.gathered.par⟩
  refine ⟨_, hreach, ?_, ?_⟩
  · refine ⟨hconfig.clean h.clean, ?_, ?_, ?_, ?_, ?_⟩
    · rw [hafter]
      refine (congrArg Resampler.pos hclock).trans ((rsPosition_eq h.clean.exact ..).trans ?_)
      rw [h.pos, h.ratio, mul_one, Nat.cast_add]
    · rw [hafter]
      exact (congrArg Resampler.ratio hclock).trans h.ratio
    · rw [State.nCar, hconfig.cfg, hafter]
      exact (feed_gains s.rx bits).trans h.gains
    · rw [hafter]
      exact ht.gathered.eos.trans h.eos
    · rw [hafter]
      exact ht.gathered.room h.room
  · rw [hafter] at hconfig ⊢
    exact
      { config := hconfig
        samples := ht.gathered.samples
        stands := ⟨by rw [hconfig.cfg]; rfl, rfl⟩
        st := rfl
        rx := rfl
        byteOut := rfl
        count := rfl
        rxBlocks := rfl
        detOffset := ht.gathered.detOffset
        detPeak := ht.gathered.detPeak }

/-- Blocks at the frame's own clock decode one after another, up to the one with the sentinel. -/
theorem reaches_decoded {blocks : List (List Bool)} (h : Locked s j) (hstands : s.Stands)
    (hbits : ∀ b ∈ blocks, b.length = s.blockBits) (hahead : s.allSamples.drop j = s.blockSamples blocks ++ rest)
    (hout : s.port.byteOut.length + (s.rx.feed blocks.flatten).2.length ≤ s.par.depth.byteOut)
    (hopen : ∀ xs ys, blocks = xs ++ ys → ys ≠ [] → (s.rx.feed xs.flatten).1.sentinel = false) :
    ∃ t, s.Reaches t ∧ Locked t (j + blocks.length * s.nSym) ∧ Decoded s blocks.flatten blocks.length t := by
  induction blocks generalizing s j with
  | nil =>
    refine ⟨s, .refl s, ?_, decoded_nil hstands⟩
    rw [List.length_nil, Nat.zero_mul]
    exact h
  | cons b bs ih =>
    have hsplit : s.blockSamples (b :: bs) = s.synth (s.blockSymbols b) ++ s.blockSamples bs := rfl
    rw [hsplit, List.append_assoc] at hahead
    rw [List.flatten_cons, feed_append, List.length_append] at hout
    obtain ⟨t, hreach, hlocked, hdecoded⟩ := reaches_decodedBlock h hstands (hopen [] (b :: bs) rfl (by simp))
      (hbits b List.mem_cons_self) hahead (by omega)
    have hN : t.nSym = s.nSym := by rw [State.nSym, hdecoded.config.cfg]; rfl
    have hcap : t.blockBits = s.blockBits := by
      rw [State.blockBits, State.nCar, State.nBit, hdecoded.config.cfg]
      rfl
    obtain ⟨u, hreach', hlocked', hdecoded'⟩ := ih hlocked hdecoded.stands
      (fun b hb => by rw [hcap]; exact hbits b (List.mem_cons_of_mem _ hb))
      (by rw [hdecoded.samples, ← List.drop_drop, hahead, List.drop_left' (length_synth s _), hdecoded.config.blockSamples])
      (by rw [hdecoded.byteOut, hdecoded.rx, hdecoded.config.par, List.length_append]; omega)
      (fun xs ys hxs hys => by
        have hfront := hopen (b :: xs) ys (by rw [hxs, List.cons_append]) hys
        rw [List.flatten_cons, feed_append] at hfront
        rwa [hdecoded.rx])
    refine ⟨u, hreach.trans hreach', ?_, ?_⟩
    · rw [hN] at hlocked'
      rw [List.length_cons, Nat.succ_mul, Nat.add_comm (bs.length * s.nSym), ← Nat.add_assoc]
      exact hlocked'
    · rw [List.length_cons, Nat.add_comm]
      exact hdecoded.trans hdecoded'

/-! ### The end of the input -/

/-- The terminal state and the cause after the data blocks, `m` samples being left: CONFIRMING's, or a short block's. -/
def State.tailEnd (s : State) (m : Nat) : RxState × Cause :=
  if s.rx.sentinel then confirmEnd (min s.cfg.confirm.toNat m) s.cfg.confirm.toNat else (.truncated, .truncated)

/-- With less than a block left, RECV comes to its end. -/
theorem reaches_tailEnd (h : Locked s j) (hstands : s.Stands)
    (hshort : s.rx.sentinel = false → (s.allSamples.drop j).length < s.nSym) :
    ∃ us k t, Resampled s us k t ∧
      s.Reaches (t.closedAs (s.tailEnd (s.allSamples.drop j).length).1 (s.tailEnd (s.allSamples.drop j).length).2) := by
  obtain ⟨heng, -⟩ := hstands
  rw [State.tailEnd]
  cases hs : s.rx.sentinel with
  | true =>
    rw [hs] at heng
    obtain ⟨us, t, ht, hreach⟩ := reaches_confirmed (c := s.cfg.confirm.toNat) heng h.room (.inl h.eos)
    rw [h.rsAhead, List.length_take] at hreach
    exact ⟨us, _, t, ht, hreach⟩
  | false =>
    rw [hs] at heng
    obtain ⟨us, t, ht, hreach⟩ := reaches_truncated heng h.room
      (by rw [h.rsAhead, List.length_take, Nat.min_eq_right (hshort hs).le]; exact hshort hs) h.eos
    exact ⟨us, _, t, ht, hreach⟩

end

end Sys2Proof.Machine
end

section
/-! PROOFS. RECV on Frame(D): what it hears, where the search stops, and what it delivers (44_frame_rx.md R330, R332). -/

namespace Sys2Proof.Machine

section
variable {s t u x : State} {d : List Byte} {c : Nat} {us : List SampleUnit}

/-! ### The samples of a cut frame -/

/-- The offset of the preamble in a frame after the skip. -/
def State.preambleAt (s : State) : Nat := s.cfg.silStart.toNat - s.cfg.skip.toNat

/-- The bit blocks of Framed(D) (43_frame_tx.md R256). -/
def State.frameBlocks (s : State) (d : List Byte) : List (List Bool) :=
  bitBlocks s.blockBits ((framed d).flatMap bitsOfByte)

/-- The samples after the preamble of a frame without its last `c` samples. -/
def State.tailLength (s : State) (d : List Byte) (c : Nat) : Nat :=
  (s.frameBlocks d).length * s.nSym + s.cfg.silStop.toNat - c

/-- The data blocks left whole in a frame without its last `c` samples (44_frame_rx.md R332). -/
def State.blocksLeft (s : State) (d : List Byte) (c : Nat) : Nat :=
  min (s.frameBlocks d).length (s.tailLength d c / s.nSym)

/-- A frame without its last `c` samples, after the skip. -/
def State.heard (s : State) (d : List Byte) (c : Nat) : List Scalar :=
  ((s.frame d).take ((s.frame d).length - c)).drop s.cfg.skip.toNat

/-- The samples of a cut frame after its preamble. -/
def State.heardTail (s : State) (d : List Byte) (c : Nat) : List Scalar :=
  (s.blockSamples (s.frameBlocks d) ++ silence s.cfg.silStop.toNat).take (s.tailLength d c)

/-- RECV finds Frame(D) in SMP_IN, without its last `c` samples, under the premises of the round trip (44_frame_rx.md R330,
R332). -/
structure Arrives (s : State) (d : List Byte) (c : Nat) : Prop where
  idle : s.busy = false
  clean : Clean s
  eos : s.port.smpInEos = true
  cut : c ≤ s.cfg.silStop.toNat + (s.dataBlocks d).length * s.nSym
  samples : s.samplesIn = (s.frame d).take ((s.frame d).length - c)
  skip : s.cfg.skip.toNat ≤ s.cfg.silStart.toNat
  limit : s.preambleAt < s.searchLimit
  room : s.port.byteOut.length + d.length ≤ s.par.depth.byteOut
  dump : s.DumpRoom
  energy : s.num.energy s.preamble ≠ 0
  root : s.num.sqrt (s.num.mul (s.num.energy s.preamble) (s.num.energy s.preamble)) = s.num.energy s.preamble
  top : ∀ o, o < (s.heard d c).length → o + s.nPre ≤ (s.heard d c).length → s.corrOver (s.heard d c) o ≤ 1
  first : ∀ o, o < s.preambleAt → s.corrOver (s.heard d c) o < 1

/-- The data blocks left whole come first, and less than a block or the trail's rest follows. -/
theorem heardTail_eq (s : State) (d : List Byte) (c : Nat) :
    ∃ rest, s.heardTail d c = s.blockSamples ((s.frameBlocks d).take (s.blocksLeft d c)) ++ rest ∧
      rest.length = s.tailLength d c - s.blocksLeft d c * s.nSym := by
  have hwhole : s.blocksLeft d c * s.nSym ≤ s.tailLength d c :=
    (Nat.mul_le_mul_right _ (Nat.min_le_right ..)).trans (Nat.div_mul_le_self ..)
  have hle : s.blocksLeft d c ≤ (s.frameBlocks d).length := Nat.min_le_left ..
  have htake : (s.blockSamples ((s.frameBlocks d).take (s.blocksLeft d c))).length = s.blocksLeft d c * s.nSym := by
    rw [State.blockSamples, length_modulate, List.length_map, List.length_take, Nat.min_eq_left hle]
  refine ⟨(s.heardTail d c).drop (s.blocksLeft d c * s.nSym), ?_, ?_⟩
  · have hfront : (s.heardTail d c).take (s.blocksLeft d c * s.nSym) =
        s.blockSamples ((s.frameBlocks d).take (s.blocksLeft d c)) := by
      rw [State.heardTail, List.take_take, Nat.min_eq_left hwhole]
      conv_lhs => rw [← List.take_append_drop (s.blocksLeft d c) (s.frameBlocks d), blockSamples_append, List.append_assoc]
      exact List.take_left' htake
    rw [← hfront, List.take_append_drop]
  · have hlen : s.tailLength d c ≤ (s.blockSamples (s.frameBlocks d) ++ silence s.cfg.silStop.toNat).length := by
      rw [State.blockSamples, List.length_append, length_modulate, List.length_map, length_silence, State.tailLength]
      omega
    rw [List.length_drop, State.heardTail, List.length_take, Nat.min_eq_left hlen]

theorem calibratedTo_burst (s : State) (b : Nat) :
    State.calibratedTo { s with burst := b } = { s.calibratedTo with burst := b } := by
  have hratio : State.initialRatio { s with burst := b } = s.initialRatio :=
    funext (SameSetup.initialRatio (x := { s with burst := b }) ⟨rfl, rfl, rfl⟩)
  rw [State.calibratedTo, hratio]
  rfl

section
variable (h : Arrives s d c)
include h

theorem Arrives.heard_eq : s.heard d c = silence s.preambleAt ++ (s.preamble ++ s.heardTail d c) := by
  have hblocks : (s.dataBlocks d).length = (s.frameBlocks d).length := List.length_map _
  have hcut := h.cut
  have hskip := h.skip
  rw [hblocks] at hcut
  have hsplit : s.frame d =
      silence s.cfg.silStart.toNat ++ (s.preamble ++ (s.blockSamples (s.frameBlocks d) ++ silence s.cfg.silStop.toNat)) := by
    rw [State.frame, List.append_assoc, List.append_assoc]
    rfl
  have hlen : (s.frame d).length - c = (silence s.cfg.silStart.toNat).length + (s.preamble.length + s.tailLength d c) := by
    rw [length_frame, hblocks, length_silence, length_preamble, State.tailLength]
    omega
  have hsilence : (silence s.cfg.silStart.toNat).drop s.cfg.skip.toNat = silence s.preambleAt := List.drop_replicate
  rw [State.heard, hlen, hsplit, List.take_length_add_append, List.take_length_add_append,
    List.drop_append_of_le_length (by rwa [length_silence]), hsilence]
  rfl

/-! ### The search -/

theorem Arrives.preambleAt_le : s.preambleAt + s.nPre ≤ (s.heard d c).length := by
  rw [h.heard_eq, List.length_append, List.length_append, length_silence, length_preamble, State.nPre]
  omega

theorem Arrives.take_preambleAt : ((s.heard d c).drop s.preambleAt).take s.nPre = s.preamble := by
  rw [h.heard_eq, List.drop_left' (length_silence _)]
  exact List.take_left' (length_preamble s)

/-- The preamble correlates with itself to 1. -/
theorem Arrives.corr_preambleAt : s.corrOver (s.heard d c) s.preambleAt = 1 := by
  have hself : s.num.innerProduct s.preamble s.preamble = s.num.energy s.preamble := by
    rw [NumTable.innerProduct, List.zipWith_self]
    rfl
  rw [State.corrOver, h.take_preambleAt, State.correlation, if_neg (not_or.2 ⟨h.energy, h.energy⟩), h.root, hself,
    h.clean.exact.div, div_self h.energy]

/-- Silence does not correlate. -/
theorem Arrives.corr_silence {o : Nat} (ho : o + s.nPre ≤ s.preambleAt) : s.corrOver (s.heard d c) o = 0 := by
  have hwindow : ((s.heard d c).drop o).take s.nPre = silence s.nPre := by
    rw [h.heard_eq, List.drop_append_of_le_length (by rw [length_silence]; omega), silence, List.drop_replicate,
      List.take_append_of_le_length (by rw [List.length_replicate]; omega), List.take_replicate, Nat.min_eq_left (by omega)]
    rfl
  have henergy : s.num.energy (silence s.nPre) = 0 := by
    rw [NumTable.energy, h.clean.exact.sum_eq, silence, List.map_replicate, h.clean.exact.mul, mul_zero, List.sum_replicate,
      smul_zero]
  rw [State.corrOver, hwindow, State.correlation]
  exact if_pos (.inl henergy)

/-- The first crossing of the threshold is at most one preamble before the frame's. -/
theorem Arrives.crossing : ∃ d0 ≤ s.preambleAt, s.preambleAt < d0 + s.nPre ∧ s.theta ≤ s.corrOver (s.heard d c) d0 ∧
    ∀ o < d0, s.corrOver (s.heard d c) o < s.theta := by
  obtain ⟨hpos, hone, -⟩ := receiverBounds h.clean.checks
  have hcross : ∃ o, s.theta ≤ s.corrOver (s.heard d c) o := ⟨s.preambleAt, by rwa [h.corr_preambleAt]⟩
  refine ⟨Nat.find hcross, Nat.find_min' hcross (by rwa [h.corr_preambleAt]), ?_, Nat.find_spec hcross,
    fun o ho => not_le.1 (Nat.find_min hcross ho)⟩
  by_contra hfar
  have hzero := Nat.find_spec hcross
  rw [h.corr_silence (not_lt.1 hfar)] at hzero
  exact hpos.not_ge hzero

/-- The first of the largest correlations is the preamble's. -/
theorem Arrives.firstPeak {d0 : Nat} (hle : d0 ≤ s.preambleAt) (hlt : s.preambleAt < d0 + s.nPre) :
    FirstPeak (s.corrOver (s.heard d c))
      (fun o => d0 ≤ o ∧ o < d0 + s.nPre ∧ o < s.searchLimit ∧ o + s.nPre ≤ (s.heard d c).length) s.preambleAt where
  mem := ⟨hle, hlt, h.limit, h.preambleAt_le⟩
  le := fun o ⟨_, _, _, hin⟩ => by
    rw [h.corr_preambleAt]
    exact h.top o (by have := nPre_pos h.clean.checks; omega) hin
  first := fun o _ ho => by
    rw [h.corr_preambleAt]
    exact h.first o ho

/-! ### From the acceptance to the data -/

/-- The search finds the frame's preamble. -/
theorem Arrives.reaches_atPeak : ∃ us u, s.recvBegun.Reaches u.atPeak ∧ Drew s.recvBegun us u ∧
    u.allSamples = s.heard d c ∧ u.rx.dbest = s.preambleAt ∧ u.rx.cbest = 1 ∧
    s.preambleAt + s.nPre ≤ u.rs.buf.length ∧ u.rx = RxCodec.init.alongside u.rx := by
  have hpre := nPre_pos h.clean.checks
  have hlen := h.preambleAt_le
  have hskip : s.cfg.skip.toNat ≤ s.recvBegun.samplesIn.length := by
    rw [State.heard, ← h.samples, List.length_drop] at hlen
    have hkeep : s.recvBegun.samplesIn = s.samplesIn := rfl
    rw [hkeep]
    omega
  obtain ⟨us, t, hreach, ht, hrx, hall⟩ := reaches_searchStart (s := s.recvBegun) rfl h.dump rfl hskip
  have hall : t.searching.allSamples = s.heard d c := hall.trans (congrArg (List.drop _) h.samples)
  have hsetup : SameSetup t.searching s := ht.setup.trans ⟨rfl, rfl, rfl⟩
  have hcorr : t.searching.corrAhead = s.corrOver (s.heard d c) := by
    funext o
    rw [State.corrAhead, hall, hsetup.corrOver]
  have htheta : t.searching.theta = s.theta := hsetup.theta
  obtain ⟨d0, hle, hlt, hhigh, hlow⟩ := h.crossing
  obtain ⟨vs, u, ds, hreach', hu⟩ := reaches_detected (s := t.searching) (d0 := d0) rfl (Nat.zero_le _)
    (by rwa [hsetup.nPre]) (by rw [hsetup.searchLimit]; exact hle.trans_lt h.limit) (by rw [hall, hsetup.nPre]; omega)
    (fun o _ ho => by rw [hcorr, htheta]; exact hlow o ho) (by rwa [hcorr, htheta]) (ht.room h.dump)
    (ht.eos.trans h.eos)
  obtain rfl : ds = s.preambleAt := by
    have hpeak := hu.peak
    rw [hcorr] at hpeak
    refine hpeak.unique ((h.firstPeak hle hlt).congr fun o => ?_)
    rw [State.InReach, hsetup.nPre, hsetup.searchLimit, hall]
  refine ⟨_, u, hreach.trans hreach', ht.trans hu.gathered.toDrew, hu.gathered.samples.trans hall, hu.dbest, ?_, ?_, ?_⟩
  · rw [hu.cbest, hcorr, h.corr_preambleAt]
  · rw [← hsetup.nPre]
    exact hu.buf
  · refine hu.parser.trans ?_
    rw [State.searching, hrx]
    rfl

/-- RECV stands at the first data block of the frame, its clock and gains calibrated. -/
structure Calibrated (s : State) (d : List Byte) (c : Nat) (t : State) : Prop where
  config : SameConfig t s
  locked : Locked t (s.preambleAt + s.nPre)
  stands : t.Stands
  samples : t.allSamples = s.heard d c
  parser : t.rx = RxCodec.init.alongside t.rx
  st : t.st = { s.st with done := false, result := false, cause := .none, rx := .receiving }
  byteOut : t.port.byteOut = s.port.byteOut
  count : t.reg.count = 0
  rxBlocks : t.reg.rxBlocks = 0
  detOffset : t.reg.detOffset = BitVec.ofNat 64 s.preambleAt
  detPeak : t.reg.detPeak = bits64 1

theorem Arrives.reaches_calibrated : ∃ t, s.recvBegun.Reaches t ∧ Calibrated s d c t := by
  obtain ⟨us, u, hreach, hu, hall, hbest, hpeak, hbuf, hparser⟩ := h.reaches_atPeak
  let w := u.atPeak
  have hconfig : SameConfig w s := by
    have hsetup := hu.setup
    exact ⟨hsetup.num, hsetup.cfg, hu.par⟩
  have hclean := hconfig.clean h.clean
  have hN : w.nPre = s.nPre := by
    rw [State.nPre, State.nTrain, State.nSym, hconfig.cfg]
    rfl
  have hpre : (w.rs.buf.drop w.rx.dbest).take w.nPre = w.preamble := by
    have hfront := h.take_preambleAt
    rw [← hall, State.allSamples, List.drop_append_of_le_length (by omega),
      List.take_append_of_le_length (by rw [List.length_drop]; omega)] at hfront
    rw [hN, hconfig.preamble, ← hfront, ← hbest]
    rfl
  have hratio := hclean.initialRatio hpre
  have hcalibrate : w.Reaches w.calibratedTo := reaches_of_step fun b =>
    (engineStep_calibrate (s := { w with burst := b }) rfl).trans (congrArg some (calibratedTo_burst w b))
  refine ⟨w.calibratedTo, hreach.trans hcalibrate, ?_⟩
  have hsent : u.rx.sentinel = false := by rw [hparser]; rfl
  have hstands : w.calibratedTo.rx.sentinel = false := hsent
  exact
    { config := ⟨hconfig.num, hconfig.cfg, hconfig.par⟩
      locked := by
        refine ⟨SameConfig.clean (s := w) ⟨rfl, rfl, rfl⟩ hclean, ?_, hratio, hclean.trainGains hpre,
          hu.eos.trans h.eos, hu.room h.dump⟩
        refine (congrArg w.dataStart hratio).trans ((dataStart_one hclean.exact).trans ?_)
        rw [hN]
        exact congrArg (fun o => ((o + s.nPre : Nat) : Scalar)) hbest
      stands := ⟨by rw [hstands]; rfl, by rw [hstands]; rfl⟩
      samples := hall
      parser := by
        refine Eq.trans (b := { u.rx with gains := w.trainGains }) rfl ?_
        rw [hparser]
        rfl
      st := congrArg (fun st : Status => { st with rx := .receiving }) hu.st
      byteOut := hu.byteOut
      count := hu.count
      rxBlocks := hu.rxBlocks
      detOffset := congrArg (BitVec.ofNat 64) hbest
      detPeak := congrArg bits64 hpeak }

end

end

end Sys2Proof.Machine
end

section
/-! PROOFS. RECV's end on a frame, whole or cut in its data or trail (44_frame_rx.md R318, R320, R321, R330, R332). -/

namespace Sys2Proof.Machine

section
variable {s t u : State} {d : List Byte} {c : Nat}

/-! ### What the parser makes of the blocks -/

section
variable (h : Clean s)
include h

/-- All blocks of Framed(D) deliver D and the sentinel (44_frame_rx.md R313, R314). -/
theorem Clean.feed_frameBlocks (d : List Byte) :
    RxCodec.feed .init (s.frameBlocks d).flatten = ({ RxCodec.init with sentinel := true }, d) := by
  obtain ⟨-, z, -, hflat⟩ := bitBlocks_spec h.blockBits_pos ((framed d).flatMap bitsOfByte)
  rw [State.frameBlocks, hflat, feed_framed]

/-- Before the last block of Framed(D) the sentinel is not decoded. -/
theorem Clean.feed_frameBlocks_front {xs ys : List (List Bool)} (hys : ys ≠ []) (hblocks : s.frameBlocks d = xs ++ ys) :
    (RxCodec.feed .init xs.flatten).1.sentinel = false := by
  obtain ⟨hfull, z, hz, hflat⟩ := bitBlocks_spec h.blockBits_pos ((framed d).flatMap bitsOfByte)
  rw [← State.frameBlocks, hblocks] at hfull hflat
  rw [List.flatten_append] at hflat
  obtain ⟨b, bs, rfl⟩ := List.exists_cons_of_ne_nil hys
  have hb : b.length = s.blockBits := hfull b (List.mem_append_right _ List.mem_cons_self)
  have hlen := congrArg List.length hflat
  rw [List.length_append, List.length_append, List.flatten_cons, List.length_append, List.length_replicate, hb] at hlen
  have hfront : xs.flatten <+: (framed d).flatMap bitsOfByte :=
    List.prefix_of_prefix_length_le (List.prefix_append _ (b :: bs).flatten) (hflat ▸ List.prefix_append ..) (by omega)
  obtain ⟨rest, hrest⟩ := hfront
  refine feed_framed_front d (ys := rest) ?_ hrest.symm
  rintro rfl
  rw [List.append_nil] at hrest
  rw [hrest] at hlen
  omega

end

/-- The bytes the parser delivers of the data blocks left whole (44_frame_rx.md R332). -/
def State.bytesLeft (s : State) (d : List Byte) (c : Nat) : List Byte :=
  (RxCodec.feed .init ((s.frameBlocks d).take (s.blocksLeft d c)).flatten).2

/-- The bytes before the cut are a front part of the payload. -/
theorem Clean.bytesLeft_prefix (h : Clean s) : s.bytesLeft d c <+: d := by
  have hall := h.feed_frameBlocks d
  rw [← List.take_append_drop (s.blocksLeft d c) (s.frameBlocks d), List.flatten_append, feed_append] at hall
  exact ⟨_, congrArg Prod.snd hall⟩

section
variable (h : Arrives s d c)
include h

/-! ### What is left after the whole blocks -/

/-- The cut is in the trail, or it leaves less than a block after the blocks left whole (44_frame_rx.md R332). -/
theorem Arrives.tail_cases :
    (c ≤ s.cfg.silStop.toNat ∧ s.blocksLeft d c = (s.frameBlocks d).length ∧
      s.tailLength d c - s.blocksLeft d c * s.nSym = s.cfg.silStop.toNat - c) ∨
    (s.cfg.silStop.toNat < c ∧ s.blocksLeft d c < (s.frameBlocks d).length ∧
      s.tailLength d c - s.blocksLeft d c * s.nSym < s.nSym) := by
  have hN := h.clean.nSym_pos
  have hcut := h.cut
  rw [State.dataBlocks, List.length_map, ← State.frameBlocks] at hcut
  obtain htrail | hdata := le_or_gt c s.cfg.silStop.toNat
  · have hwhole : s.blocksLeft d c = (s.frameBlocks d).length := by
      rw [State.blocksLeft, Nat.min_eq_left]
      rw [Nat.le_div_iff_mul_le hN, State.tailLength]
      omega
    refine .inl ⟨htrail, hwhole, ?_⟩
    rw [hwhole, State.tailLength]
    omega
  · have hlt : s.tailLength d c / s.nSym < (s.frameBlocks d).length := by
      rw [Nat.div_lt_iff_lt_mul hN, State.tailLength]
      omega
    have hwhole : s.blocksLeft d c = s.tailLength d c / s.nSym := Nat.min_eq_right hlt.le
    refine .inr ⟨hdata, by rwa [hwhole], ?_⟩
    rw [hwhole, ← Nat.mod_eq_sub_div_mul]
    exact Nat.mod_lt _ hN

/-- The sentinel is among the blocks left whole exactly when only trailing silence is missing. -/
theorem Arrives.sentinel_cases :
    (c ≤ s.cfg.silStop.toNat ∧ s.bytesLeft d c = d ∧
      (RxCodec.feed .init ((s.frameBlocks d).take (s.blocksLeft d c)).flatten).1.sentinel = true) ∨
    (s.cfg.silStop.toNat < c ∧
      (RxCodec.feed .init ((s.frameBlocks d).take (s.blocksLeft d c)).flatten).1.sentinel = false) := by
  obtain ⟨htrail, hwhole, -⟩ | ⟨hdata, hwhole, -⟩ := h.tail_cases
  · rw [State.bytesLeft, hwhole, List.take_length, h.clean.feed_frameBlocks]
    exact .inl ⟨htrail, rfl, rfl⟩
  · refine .inr ⟨hdata, h.clean.feed_frameBlocks_front (ys := (s.frameBlocks d).drop (s.blocksLeft d c)) ?_
      (List.take_append_drop ..).symm⟩
    rw [← List.length_pos_iff, List.length_drop]
    omega

/-- How RECV ends: DONE where CONFIRMING finds its samples, TRUNCATED otherwise (44_frame_rx.md R332). -/
theorem Arrives.tailEnd (hcfg : u.cfg = s.cfg)
    (hsent : u.rx.sentinel = (RxCodec.feed .init ((s.frameBlocks d).take (s.blocksLeft d c)).flatten).1.sentinel) :
    u.tailEnd (s.tailLength d c - s.blocksLeft d c * s.nSym) =
      if c + s.cfg.confirm.toNat ≤ s.cfg.silStop.toNat then (.done, .none) else (.truncated, .truncated) := by
  obtain ⟨htrail, -, hset⟩ | ⟨hdata, hopen⟩ := h.sentinel_cases
  · obtain ⟨-, -, hrest⟩ := h.tail_cases.resolve_right fun hdata => absurd htrail hdata.1.not_ge
    rw [State.tailEnd, hsent, hset, if_pos rfl, hrest, hcfg, confirmEnd]
    exact if_congr (by omega) rfl rfl
  · rw [State.tailEnd, hsent, hopen, if_neg (by decide), if_neg (by omega)]

/-! ### The run -/

/-- RECV came to its end on Frame(D) without its last `c` samples. -/
structure Ended (s : State) (d : List Byte) (c : Nat) (t : State) : Prop where
  eng : t.eng = .idle
  st : t.st = if c + s.cfg.confirm.toNat ≤ s.cfg.silStop.toNat
    then { s.st with done := true, result := true, cause := .none, rx := .done }
    else { s.st with done := true, result := false, cause := .truncated, rx := .truncated }
  byteOut : t.port.byteOut = s.port.byteOut ++ s.bytesLeft d c
  smpIn : t.port.smpIn = []
  smpInEos : t.port.smpInEos = false
  count : t.reg.count = BitVec.ofNat 64 (s.bytesLeft d c).length
  rxBlocks : t.reg.rxBlocks = BitVec.ofNat 64 (s.blocksLeft d c)
  detOffset : t.reg.detOffset = BitVec.ofNat 64 s.preambleAt
  detPeak : t.reg.detPeak = bits64 1
  ratio : t.rs.ratio = 1

/-- The data blocks left whole are decoded, and what is left after them is less than a block, or trailing silence. -/
theorem Arrives.reaches_decoded (ht : Calibrated s d c t) :
    ∃ u j, t.Reaches u ∧ Locked u j ∧
      Decoded t ((s.frameBlocks d).take (s.blocksLeft d c)).flatten (s.blocksLeft d c) u ∧
      (u.allSamples.drop j).length = s.tailLength d c - s.blocksLeft d c * s.nSym := by
  obtain ⟨rest, hsplit, hrest⟩ := heardTail_eq s d c
  let blocks := (s.frameBlocks d).take (s.blocksLeft d c)
  have hle : s.blocksLeft d c ≤ (s.frameBlocks d).length := Nat.min_le_left ..
  have hcount : blocks.length = s.blocksLeft d c := by rw [List.length_take, Nat.min_eq_left hle]
  have hcap : t.blockBits = s.blockBits := by
    rw [State.blockBits, State.nCar, State.nBit, ht.config.cfg]
    rfl
  have hfeed (bits : List Bool) : t.rx.feed bits =
      ((RxCodec.feed .init bits).1.alongside t.rx, (RxCodec.feed .init bits).2) := by
    conv_lhs => rw [ht.parser, feed_alongside]
  have hahead : t.allSamples.drop (s.preambleAt + s.nPre) = t.blockSamples blocks ++ rest := by
    rw [ht.samples, h.heard_eq, ht.config.blockSamples, ← hsplit, ← List.append_assoc]
    refine List.drop_left' ?_
    rw [List.length_append, length_silence, length_preamble]
    rfl
  have hout : t.port.byteOut.length + (t.rx.feed blocks.flatten).2.length ≤ t.par.depth.byteOut := by
    rw [hfeed, ht.byteOut, ht.config.par]
    exact (Nat.add_le_add_left h.clean.bytesLeft_prefix.length_le _).trans h.room
  obtain ⟨u, hreach, hlocked, hdecoded⟩ := Sys2Proof.Machine.reaches_decoded (blocks := blocks) ht.locked ht.stands
    (fun b hb => hcap ▸ (bitBlocks_spec h.clean.blockBits_pos _).1 b (List.mem_of_mem_take hb)) hahead hout
    (fun xs ys hxs hys => by
      rw [hfeed]
      refine h.clean.feed_frameBlocks_front (d := d) (ys := ys ++ (s.frameBlocks d).drop (s.blocksLeft d c))
        (List.append_ne_nil_of_left_ne_nil hys _) ?_
      rw [← List.append_assoc, ← hxs, List.take_append_drop])
  rw [hcount] at hdecoded
  refine ⟨u, _, hreach, hlocked, hdecoded, ?_⟩
  have hlen : (t.blockSamples blocks).length = blocks.length * t.nSym := by
    rw [State.blockSamples, length_modulate, List.length_map]
  rw [hdecoded.samples, ← List.drop_drop, hahead, List.drop_left' hlen, hrest]

theorem Arrives.reaches_ended : ∃ t, s.recvBegun.Reaches t ∧ Ended s d c t := by
  obtain ⟨t, hbegun, ht⟩ := h.reaches_calibrated
  obtain ⟨u, j, hdata, hlocked, hu, hrest⟩ := h.reaches_decoded ht
  have hfeed : t.rx.feed ((s.frameBlocks d).take (s.blocksLeft d c)).flatten = _ :=
    (congrArg (RxCodec.feed · _) ht.parser).trans (feed_alongside ..)
  have hbytes : (t.rx.feed ((s.frameBlocks d).take (s.blocksLeft d c)).flatten).2 = s.bytesLeft d c := by
    rw [hfeed]
    rfl
  have hsent : u.rx.sentinel = (RxCodec.feed .init ((s.frameBlocks d).take (s.blocksLeft d c)).flatten).1.sentinel := by
    rw [hu.rx, hfeed]
    rfl
  have hN : u.nSym = s.nSym := by
    rw [State.nSym, hu.config.cfg, ht.config.cfg]
    rfl
  obtain ⟨us, k, v, hv, hend⟩ := reaches_tailEnd hlocked hu.stands (fun hopen => by
    rw [hrest, hN]
    obtain ⟨-, -, hset⟩ | ⟨hdata, -⟩ := h.sentinel_cases
    · rw [← hsent, hopen] at hset
      cases hset
    · exact (h.tail_cases.resolve_left fun htrail => absurd htrail.1 hdata.not_ge).2.2)
  rw [hrest, h.tailEnd (hu.config.cfg.trans ht.config.cfg) hsent] at hend
  refine ⟨_, (hbegun.trans hdata).trans hend, ?_⟩
  have hst : v.st = { t.st with rx := u.st.rx } := hv.gathered.st.trans hu.st
  exact
    { eng := rfl
      st := by
        rw [State.closedAs, hst, ht.st]
        split <;> rfl
      byteOut := hv.gathered.byteOut.trans (by rw [State.atPos, hu.byteOut, hbytes, ht.byteOut])
      smpIn := rfl
      smpInEos := rfl
      count := hv.gathered.count.trans (hu.count.trans (by rw [hbytes, ht.count]; exact BitVec.zero_add _))
      rxBlocks := hv.gathered.rxBlocks.trans (hu.rxBlocks.trans (by rw [ht.rxBlocks]; exact BitVec.zero_add _))
      detOffset := hv.gathered.detOffset.trans (hu.detOffset.trans ht.detOffset)
      detPeak := hv.gathered.detPeak.trans (hu.detPeak.trans ht.detPeak)
      ratio := hv.gathered.ratio.trans hlocked.ratio }

theorem Arrives.exec_recv : ∃ t, Ended s d c t ∧
    ∃ k, ∀ b, k ≤ b → exec .recv { s with burst := b } = .next { t with burst := b } := by
  obtain ⟨t, hreach, ht⟩ := h.reaches_ended
  exact ⟨t, ht, Sys2Proof.Machine.exec_recv h.idle h.clean.checks hreach ht.eng⟩

end

/-- Settles O46: the run decodes the blocks left whole, and CONFIRMING or the short block after them ends it. -/
theorem recvDetectsTruncation : Obligations.RecvDetectsTruncation := by
  unfold Obligations.RecvDetectsTruncation
  intro s d c hidle hchecks heos hcut hsamples hskip start y hlimit hout hroom hexact horth harg ep henergy hroot htop hfirst
  have h : Arrives s d c := ⟨hidle, ⟨hexact, horth, harg, hchecks⟩, heos, hcut, hsamples, hskip, hlimit, hout, hroom, henergy,
    hroot, htop, hfirst⟩
  obtain ⟨t, ht, k, hexec⟩ := h.exec_recv
  refine ⟨k, fun b hb => ⟨_, hexec b hb, ?_, ht.st, ht.byteOut, h.clean.bytesLeft_prefix, fun htrail => ?_, ht.rxBlocks⟩⟩
  · exact (busy_eq_false_iff _).2 ht.eng
  · obtain ⟨-, hall, -⟩ := h.sentinel_cases.resolve_right fun hdata => absurd htrail hdata.1.not_ge
    exact hall

/-- Settles O45: with no sample missing, every block is left whole and CONFIRMING finds its samples. -/
theorem recvRoundTrip : Obligations.RecvRoundTrip := by
  unfold Obligations.RecvRoundTrip
  intro s d hidle hchecks heos hsamples hskip start y hlimit hout hroom hexact horth harg ep henergy hroot htop hfirst
  have hheard : s.heard d 0 = y := by rw [State.heard, Nat.sub_zero, List.take_length]
  have h : Arrives s d 0 := ⟨hidle, ⟨hexact, horth, harg, hchecks⟩, heos, Nat.zero_le _,
    by rw [Nat.sub_zero, List.take_length]; exact hsamples, hskip, hlimit, hout, hroom, henergy, hroot,
    by rw [hheard]; exact htop, by rw [hheard]; exact hfirst⟩
  obtain ⟨t, ht, k, hexec⟩ := h.exec_recv
  obtain ⟨-, -, -, hconfirm⟩ := receiverBounds hchecks
  rw [← Nat.zero_add s.cfg.confirm.toNat] at hconfirm
  obtain ⟨-, hbytes, -⟩ := h.sentinel_cases.resolve_right fun hdata => absurd hdata.1 (Nat.not_lt_zero _)
  obtain ⟨-, hblocks, -⟩ := h.tail_cases.resolve_right fun hdata => absurd hdata.1 (Nat.not_lt_zero _)
  have hdata : (s.dataBlocks d).length = (s.frameBlocks d).length := List.length_map _
  refine ⟨k, fun b hb => ⟨_, hexec b hb, (busy_eq_false_iff _).2 ht.eng, ht.st.trans (if_pos hconfirm), ?_, ht.smpIn,
    ht.smpInEos, ?_, ?_, ht.detOffset, ht.detPeak, ht.ratio⟩⟩
  · rw [← hbytes]; exact ht.byteOut
  · rw [← hbytes]; exact ht.count
  · rw [hdata, ← hblocks]; exact ht.rxBlocks

end

end Sys2Proof.Machine
end

section
/-! PROOFS. A write to CTRL: the turn that runs it, its rejection while the engine runs, and the control commands NOP, SRST
and CAL_CLEAR (45_control.md R340 to R342, R350 to R352). -/

namespace Sys2Proof.Machine

section
variable {s : State} {v : Word} {i : Instr}

/-! ### The command a word decodes to -/

theorem command_of_decode (h : decodeWord v = .ok i) (s : State) : command v s = exec i s := by
  unfold command; rw [h]

theorem command_of_decodeError {e : DecodeError} (h : decodeWord v = .error e) (s : State) :
    command v s = .next s.issueIllegal.drive := by
  unfold command; rw [h]

theorem decodeTableWord_eq_some_iff {nbits w : Nat} :
    decodeTableWord nbits w = some i ↔ decodeWord (BitVec.ofNat 64 (w % 2 ^ nbits)) = .ok i := by
  unfold decodeTableWord
  split <;> simp [*]

/-- No word but its own encoding decodes to SRST (45_control.md R342). -/
theorem eq_of_decodeWord_srst (h : decodeWord v = .ok .srst) : v = 0x0000000001000000#64 := by
  obtain ⟨hrsv, hop, hcount⟩ := decodeWord_eq_ok_iff.1 h
  rw [← encode_eq_of_fields hrsv hop hcount]
  rfl

/-! ### The turn that runs it -/

theorem ctrlWord_write_ctrl (v : Word) : (HostTxn.write ctrlIndex v).ctrlWord = some v := by
  simp [HostTxn.ctrlWord]

theorem ctrlWord_eq_none {x : HostTxn} (h : ∀ v, x ≠ .write ctrlIndex v) : x.ctrlWord = none :=
  Option.eq_none_iff_forall_ne_some.2 fun v hv => h v (ctrlWord_eq_some hv)

theorem step_command {burst : Nat} {rest : List Turn}
    (h : s.sched = { txn := .write ctrlIndex v, burst := burst } :: rest) :
    step s = command v { s with sched := rest, burst := burst, reply := .none } := by
  unfold step; simp only [h, ctrlWord_write_ctrl]; rfl

theorem step_transact {t : Turn} {rest : List Turn} (h : s.sched = t :: rest) (hother : ∀ v, t.txn ≠ .write ctrlIndex v) :
    step s = .next (State.transact { s with sched := rest, burst := t.burst, reply := .none } t.txn).drive := by
  unfold step; simp only [h, ctrlWord_eq_none hother]; rfl

/-- The turn `withFetchWord` puts first has the state's own burst. -/
theorem step_withFetchWord {w : Nat} (h : decodeTableWord 64 w = some i) :
    step (s.withFetchWord 64 w) = exec i { s with reply := .none } := by
  rw [step_command rfl, command_of_decode (decodeTableWord_eq_some_iff.1 h)]
  rfl

theorem engineStep_eq_none_of_rest (h : s.busy = false ∨ s.engineStep = none) : s.engineStep = none :=
  h.elim (fun hidle => engineStep_idle ((busy_eq_false_iff s).1 hidle)) id

/-! ### Rejection -/

/-- A running engine rejects every command but SRST (45_control.md R342). -/
theorem exec_reject (hbusy : s.busy = true) (hi : i ≠ .srst) : exec i s = .next s.reject.drive := by
  rw [exec_eq, issued_eq (.inr hi), issue_busy s hbusy]

theorem issueIllegal_busy (hbusy : s.busy = true) : s.issueIllegal = s.reject := if_pos hbusy

/-- A running engine rejects every word that does not decode to SRST, illegal ones too (45_control.md R342). -/
theorem command_reject (hbusy : s.busy = true) (hv : decodeWord v ≠ .ok .srst) : command v s = .next s.reject.drive := by
  cases hdec : decodeWord v with
  | error e => rw [command_of_decodeError hdec, issueIllegal_busy hbusy]
  | ok i => rw [command_of_decode hdec, exec_reject hbusy fun hi => hv (hi ▸ hdec)]

/-! ### Commands that end with their issue -/

/-- An idle machine's command that ends as it begins leaves nothing for the engine's share of the turn. -/
theorem exec_ends_at_once (hidle : s.busy = false) (hcheck : s.checks i = true) (hend : (begun i (s.accept i)).eng = .idle) :
    exec i s = .next (begun i (s.accept i)) := by
  rw [exec_eq, issued_begun hidle hcheck, drive_idle hend]

/-- SRST aborts a running engine and leaves nothing for its share of the turn (45_control.md R351). -/
theorem exec_srst_busy (hbusy : s.busy = true) : exec .srst s = .next (s.sessionReset.endWith .aborted) := by
  rw [exec_eq, show issued .srst s = _ from if_pos hbusy, drive_idle rfl]

theorem bits64_zero : bits64 0 = 0 := by decide +kernel

theorem bits64_one : bits64 1 = f64One := by decide +kernel

/-- CAL_CLEAR's entries are the reset values of their tables, 1 and 0 (45_control.md R352). -/
theorem calClear_entry (hcanonical : s.TablesCanonical) {k : Nat} (hk : k < s.par.kMax) :
    Table.get f64One s.calClear.cal.re k = bits64 1 ∧ Table.get 0 s.calClear.cal.im k = bits64 0 := by
  rw [bits64_one, bits64_zero, calClear_cal, Table.get_resetBelow _ hcanonical.calRe,
    Table.get_resetBelow _ hcanonical.calIm, if_pos hk, if_pos hk]
  exact ⟨rfl, rfl⟩

end

/-- Settles O19: only SRST's own word decodes to SRST, and every other one is rejected. -/
theorem busyRejects : Obligations.BusyRejects := by
  unfold Obligations.BusyRejects
  exact fun s v hbusy hv => command_reject hbusy (mt eq_of_decodeWord_srst hv)

/-- Settles O24: CAL_CLEAR is accepted and ends at once, and the entries below K_MAX read as their reset values. -/
theorem calClearEffect : Obligations.CalClearEffect := by
  unfold Obligations.CalClearEffect
  refine fun s hidle hcanonical => ⟨s.calClear.cal, ?_, fun k hk => calClear_entry hcanonical hk⟩
  rw [exec_ends_at_once hidle rfl rfl, (busy_eq_false_iff s).1 hidle]
  rfl

/-- Settles O4: a turn by its transaction, and a CTRL write by what its word decodes to. -/
theorem stepRunsDecodedCommand : Obligations.StepRunsDecodedCommand := by
  unfold Obligations.StepRunsDecodedCommand
  refine ⟨fun s v burst rest i hsched hdec => ?_, fun s v burst rest e hsched hdec => ?_,
    fun s t rest hsched hother => step_transact hsched hother, fun s w i hdec => step_withFetchWord hdec,
    fun s hsched => step_nil hsched, fun s hrest k => runEngine_none (engineStep_eq_none_of_rest hrest) k⟩
  · rw [step_command hsched, command_of_decode hdec]
  · rw [step_command hsched, command_of_decodeError hdec]

/-- Settles O22: idle, NOP is accepted and ends at once; busy, it is rejected. -/
theorem nopEffect : Obligations.NopEffect := by
  unfold Obligations.NopEffect
  refine fun s => ⟨fun hidle => ?_, fun hbusy => exec_reject hbusy nofun⟩
  rw [exec_ends_at_once hidle rfl rfl, (busy_eq_false_iff s).1 hidle]
  rfl

/-- Settles O23: busy, the session reset ends the executing command ABORTED; idle, it ends SRST itself. -/
theorem srstEffect : Obligations.SrstEffect := by
  unfold Obligations.SrstEffect
  intro s
  rw [bits64_zero, bits64_one]
  cases hbusy : s.busy with
  | true => rw [exec_srst_busy hbusy]; rfl
  | false => rw [exec_ends_at_once hbusy rfl rfl]; rfl

end Sys2Proof.Machine
end

section
/-! PROOFS. Exceptions: an illegal word, the configuration checks spelled in the registers, and the end of a command
(60_exceptions.md R371, R372, R374; 45_control.md R345 to R355). -/

namespace Sys2Proof.Machine

section
variable {s t u : State} {c : Instr} {ph : Phase} {v : Word}

/-! ### An illegal word -/

/-- An idle machine's acceptance and end leave of the acceptance COUNT alone. -/
theorem accept_endWith (hidle : s.busy = false) (c : Instr) (e : Cause) : (s.accept c).endWith e = { s with
    st := { s.st with done := true, result := decide (e = .none), cause := e }
    reg := { s.reg with count := 0 } } := by
  simp [State.accept, State.endWith, (busy_eq_false_iff s).1 hidle]

theorem issueIllegal_idle (hidle : s.busy = false) : s.issueIllegal = (s.accept .nop).endWith .illegal :=
  if_neg (Bool.eq_false_iff.1 hidle)

/-! ### Finite registers -/

theorem finite_eq_isSome (w : Word) : finite w = (f64 w).isSome := by
  rw [finite, f64]; split <;> simp [*]

theorem finiteReg_iff (s : State) (r : Reg) (p : Scalar → Prop) :
    s.FiniteReg r p ↔ finite (s.regValue r) = true ∧ p (realOf (s.regValue r)) := by
  rw [State.FiniteReg, finite_eq_isSome, realOf]
  cases f64 (s.regValue r) <;> simp

/-- Finite patterns have the same real exactly when they have the same value. -/
theorem realOf_eq_realOf_iff {w w' : Word} (h : finite w = true) (h' : finite w' = true) :
    realOf w = realOf w' ↔ f64 w = f64 w' := by
  rw [finite_eq_isSome, Option.isSome_iff_exists] at h h'
  obtain ⟨x, hx⟩ := h
  obtain ⟨y, hy⟩ := h'
  rw [realOf, realOf, hx, hy, Option.getD_some, Option.getD_some, Option.some.injEq]

/-! ### Numbers below a bound -/

theorem allBelow_iff (n : Nat) (p : Nat → Bool) : allBelow n p = true ↔ ∀ i < n, p i = true := by
  simp [allBelow]

theorem distinctBelow_iff {α : Type} [DecidableEq α] (n : Nat) (f : Nat → α) :
    distinctBelow n f = true ↔ ∀ i < n, ∀ j < n, i ≠ j → f i ≠ f j := by
  simp only [distinctBelow, allBelow_iff, decide_eq_true_eq]
  refine ⟨fun h i hi j hj hne => ?_, fun h i hi j hj => h i hi j (hj.trans hi) hj.ne'⟩
  obtain hlt | hlt := Nat.lt_or_gt_of_ne hne
  · exact (h j hj i hlt).symm
  · exact h i hi j hlt

/-! ### The registers the checks read -/

/-- A 32-bit register reads as the number it holds. -/
theorem toNat_zeroExtend (x : BitVec 32) : (x.zeroExtend 64).toNat = x.toNat := BitVec.toNat_setWidth_of_le (by decide)

theorem toNat_cfgN (s : State) : (s.regValue .cfgN).toNat = s.nSym := toNat_zeroExtend _
theorem toNat_cfgK (s : State) : (s.regValue .cfgK).toNat = s.nCar := toNat_zeroExtend _
theorem toNat_cfgB (s : State) : (s.regValue .cfgB).toNat = s.nBit := toNat_zeroExtend _
theorem toNat_cfgLtrain (s : State) : (s.regValue .cfgLtrain).toNat = s.nTrain := toNat_zeroExtend _
theorem toNat_cfgPilot (s : State) : (s.regValue .cfgPilot).toNat = s.pilot := toNat_zeroExtend _
theorem toNat_cfgSearchLimit (s : State) : (s.regValue .cfgSearchLimit).toNat = s.searchLimit := toNat_zeroExtend _
theorem toNat_cfgConfirm (s : State) : (s.regValue .cfgConfirm).toNat = s.cfg.confirm.toNat := toNat_zeroExtend _
theorem toNat_cfgSilStop (s : State) : (s.regValue .cfgSilStop).toNat = s.cfg.silStop.toNat := toNat_zeroExtend _
theorem toNat_cfgBin (s : State) (k : Nat) : (s.regValue (.cfgBin k)).toNat = s.bin k := toNat_zeroExtend _
theorem toNat_cfgTrain (s : State) (i k : Nat) : (s.regValue (.cfgTrain i k)).toNat = s.trainIndex i k :=
  toNat_zeroExtend _

/-- PCM_EN is bit 1 of CFG_FLAGS (10_state.md R40). -/
theorem getLsbD_cfgFlags (s : State) : (s.regValue .cfgFlags).getLsbD 1 = s.pcmEn := by
  simp [State.regValue, State.pcmEn]

/-! ### Each check is its rule -/

theorem carrierCheck_iff (s : State) : s.carrierCheck = true ↔ s.CarrierRule := by
  simp only [State.carrierCheck, State.CarrierRule, Bool.and_eq_true, decide_eq_true_eq, allBelow_iff, distinctBelow_iff,
    finiteReg_iff, toNat_cfgN, toNat_cfgK, toNat_cfgBin, and_assoc, and_true]
  rfl

/-- The points compared are finite, and finite points are equal where the values of both parts are. -/
theorem constellationCheck_iff (s : State) : s.constellationCheck = true ↔ s.ConstellationRule := by
  simp only [State.constellationCheck, State.ConstellationRule, Bool.and_eq_true, decide_eq_true_eq, allBelow_iff,
    distinctBelow_iff, finiteReg_iff, toNat_cfgB, and_assoc, and_true]
  refine and_congr_right fun _ => and_congr_right fun _ => and_congr_right fun hfin => ?_
  refine forall₂_congr fun i hi => forall₂_congr fun j hj => imp_congr_right fun _ => ?_
  obtain ⟨hre, him⟩ := hfin i hi
  obtain ⟨hre', him'⟩ := hfin j hj
  rw [State.point, State.point, ne_eq, Cx.mk.injEq, realOf_eq_realOf_iff hre hre', realOf_eq_realOf_iff him him',
    not_and_or]
  rfl

theorem demodCheck_iff (s : State) : s.demodCheck = true ↔ s.DemodRule := by
  simp only [State.demodCheck, State.DemodRule, gainOk, Bool.and_eq_true, decide_eq_true_eq, finiteReg_iff, toNat_cfgPilot,
    toNat_cfgK, and_assoc]
  rfl

theorem calCheck_iff (s : State) : s.calCheck = true ↔ s.CalRule := by
  simp only [State.calCheck, State.CalRule, allBelow_iff, Bool.and_eq_true, finiteReg_iff, toNat_cfgK, and_true]
  rfl

theorem ratioCheck_iff (s : State) : s.ratioCheck = true ↔ s.RatioRule := positive_iff _

theorem pcmCheck_iff (s : State) : s.pcmCheck = true ↔ s.PcmRule := by
  rw [State.pcmCheck, State.PcmRule, getLsbD_cfgFlags, Bool.or_eq_true, Bool.not_eq_true', positive_iff]
  cases s.pcmEn with
  | true => simp [State.FiniteReg, State.regValue]
  | false => simp

theorem trainingCheck_iff (s : State) : s.trainingCheck = true ↔ s.TrainingRule := by
  simp only [State.trainingCheck, State.TrainingRule, allBelow_iff, Bool.and_eq_true, decide_eq_true_eq, toNat_cfgLtrain,
    toNat_cfgK, toNat_cfgB, toNat_cfgTrain, and_assoc]

theorem receiverCheck_iff (s : State) : s.receiverCheck = true ↔ s.ReceiverRule := by
  simp only [State.receiverCheck, State.ReceiverRule, positive, Bool.and_eq_true, decide_eq_true_eq, finiteReg_iff,
    toNat_cfgSearchLimit, toNat_cfgConfirm, toNat_cfgSilStop, and_assoc]
  rfl

/-- A command's checks are the rules of the table of 45_control.md R355. -/
theorem checks_iff (s : State) (i : Instr) : s.checks i = true ↔ s.CheckRules i := by
  cases i <;> simp only [State.checks, State.CheckRules, Bool.and_eq_true, and_assoc, carrierCheck_iff,
    constellationCheck_iff, demodCheck_iff, calCheck_iff, pcmCheck_iff, ratioCheck_iff, trainingCheck_iff,
    receiverCheck_iff]

/-! ### The end of a command -/

theorem State.GoesOn.busy_eq {R : State → State → Prop} (h : s.GoesOn R c t) : t.busy = s.busy := by
  obtain ⟨v, todo, q, rfl, -, heng, -⟩ := h
  rw [load_busy, busy_congr heng]

/-- A change of place after an effect that leaves the engine mode leaves BUSY. -/
theorem load_busy_of_eng (h : u.eng = s.eng) (todo : List Act) (q : Phase) : (u.load todo q).busy = s.busy := by
  rw [load_busy, busy_congr h]

theorem fetch_busy {recv : Bool} {i : Int} (h : s.fetch recv i = .progress t) : t.busy = s.busy :=
  busy_congr (fetch_control h).1

/-- No step of RECV's rule ends the command: its ends are fixed actions (44_frame_rx.md R320 to R322). -/
theorem stepRecv_busy (hph : ∀ c, ph.belongs c = false) (h : s.stepPhase ph = some t) : t.busy = s.busy := by
  cases ph with
  | skip left =>
    cases left with
    | zero => cases h; exact load_busy_of_eng rfl _ _
    | succ left =>
      simp only [State.stepPhase, State.stepSkip] at h
      split at h <;> cases h
      · exact load_busy ..
      · exact busy_congr (popSample_control ‹_›).1
      · exact load_busy_of_eng (popSample_control ‹_›).1 _ _
  | search =>
    simp only [State.stepPhase, State.stepSearch] at h
    split at h
    · cases h; exact load_busy ..
    · split at h
      · cases h
      · cases h; exact load_busy ..
      · cases h; exact fetch_busy ‹_›
      · split at h <;> cases h
        · exact load_busy_of_eng rfl _ _
        · rfl
  | refine =>
    simp only [State.stepPhase, State.stepRefine] at h
    split at h
    · cases h; exact load_busy_of_eng rfl _ _
    · split at h
      · cases h
      · cases h; exact load_busy_of_eng rfl _ _
      · cases h; exact fetch_busy ‹_›
      · split at h <;> cases h <;> rfl
  | calibrate => cases h; exact load_busy_of_eng rfl _ _
  | receive win =>
    simp only [State.stepPhase, State.stepReceive] at h
    split at h
    · cases h
    · cases h; exact load_busy ..
    · cases h; exact fetch_busy ‹_›
    · split at h <;> cases h <;> exact load_busy_of_eng rfl _ _
  | rxBits bits pilot =>
    simp only [State.stepPhase, State.stepRxBits] at h
    split at h
    · cases h; exact load_busy ..
    · cases bits <;> cases h <;> exact load_busy_of_eng rfl _ _
  | confirm left =>
    cases left with
    | zero => cases h; exact load_busy ..
    | succ left =>
      simp only [State.stepPhase, State.stepConfirm] at h
      split at h <;> cases h
      · exact load_busy ..
      · exact fetch_busy ‹_›
      · exact load_busy_of_eng rfl _ _
  | closing => cases h
  | adv => cases hph (.rsAdv 0)
  | mod => cases hph (.mod 0)
  | demod => cases hph (.demod 0)
  | _ => cases hph .send

/-- A step of a phase's rule is the command's end with NONE and nothing else, or leaves the engine running. -/
theorem stepPhase_ends_or_busy (h : s.stepPhase ph = some t) : t = s.endWith .none ∨ t.busy = s.busy := by
  cases ph with
  | adv left =>
    cases left with
    | zero => cases h; exact .inl rfl
    | succ left =>
      simp only [State.stepPhase, State.stepAdv] at h
      split at h <;> cases h
      · exact .inl rfl
      · exact .inr (fetch_busy ‹_›)
      · exact .inr (load_busy_of_eng rfl _ _)
  | mod => exact (stepMod_cases (n := 0) rfl h).imp_right State.GoesOn.busy_eq
  | demod left win =>
    cases left with
    | zero => cases h; exact .inl rfl
    | succ left =>
      simp only [State.stepPhase, State.stepDemod] at h
      split at h
      · cases h
      · cases h; exact .inl rfl
      · cases h; exact .inr (fetch_busy ‹_›)
      · split at h <;> cases h <;> exact .inr (load_busy_of_eng rfl _ _)
  | lead | preamble | data | emit | pad | trail => exact .inr (stepSend_goesOn rfl h).busy_eq
  | _ => exact .inr (stepRecv_busy (fun _ => rfl) h)

/-- A step of a phase's rule that leaves the engine running reaches, of STATUS, RXSTATE alone. -/
theorem stepPhase_st (hbusy : t.busy = true) (h : s.stepPhase ph = some t) : t.st = { s.st with rx := t.st.rx } := by
  obtain ⟨u, heff, hexit⟩ := stepPhase_cases h
  obtain ⟨-, hst⟩ := phaseEffect_control heff
  cases hexit with
  | stay => exact hst
  | finish => cases hbusy
  | load todo q _ => rw [load_st]; exact hst

/-- An engine step is the end, and nothing else, or leaves the command executing and, of STATUS, reaches RXSTATE alone. -/
theorem engineStep_ends_or_goesOn (h : s.engineStep = some t) :
    (∃ e, t = s.endWith e) ∨ (t.busy = true ∧ t.st = { s.st with rx := t.st.rx }) := by
  obtain ⟨c, a, rest, ph, hc, h⟩ | ⟨c, ph, hc, h⟩ := engineStep_cases h <;>
    have hbusy : s.busy = true := (busy_eq_true_iff s).2 ⟨_, _, _, hc⟩
  · obtain ⟨e, -, rfl⟩ | ⟨heng, -, hst⟩ := perform_control h
    · exact .inl ⟨e, by rw [load_frame]; rfl⟩
    · exact .inr ⟨by rw [busy_congr heng, load_busy, hbusy], by rw [hst, load_st]⟩
  · obtain hend | hrun := stepPhase_ends_or_busy h
    · exact .inl ⟨.none, hend⟩
    · have ht : t.busy = true := hrun.trans hbusy
      exact .inr ⟨ht, stepPhase_st ht h⟩

end

/-- Settles O20: each check is its rule, a command's checks are its rules, and refused checks end BAD_CONFIG. -/
theorem failedCheckEnds : Obligations.FailedCheckEnds := by
  unfold Obligations.FailedCheckEnds
  exact fun s i => ⟨checks_iff s i, fun hidle hrules =>
    exec_badConfig hidle (Bool.eq_false_iff.2 (mt (checks_iff s i).1 hrules))⟩

/-- Settles O21: a step of a rule ends the command with no other effect or not at all, and of the fixed actions the end
alone does. -/
theorem endIsAtomic : Obligations.EndIsAtomic := by
  unfold Obligations.EndIsAtomic
  intro s t h
  obtain ⟨e, rfl⟩ | ⟨hbusy, hst⟩ := engineStep_ends_or_goesOn h
  · exact .inr ⟨e, rfl⟩
  · rw [hst]; exact .inl ⟨hbusy, rfl, rfl, rfl⟩

/-- Settles O18: idle, an illegal word's acceptance and end are one step, and the engine has no share of the turn. -/
theorem illegalWordEnds : Obligations.IllegalWordEnds := by
  unfold Obligations.IllegalWordEnds
  intro s v e hidle hdec
  rw [command_of_decodeError hdec, issueIllegal_idle hidle, drive_idle rfl, accept_endWith hidle]
  rfl

end Sys2Proof.Machine
end

section
/-! PROOFS. Where the engine takes no step: every command's hold is on a port of its own (00_scope.md R8; 20_memory.md R107,
R108; 44_frame_rx.md R325). -/

namespace Sys2Proof.Machine

section
variable {s t : State} {c : Instr} {a : Act} {ph : Phase} {todo : List Act} {recv : Bool}

/-! ### Pops and fetches that hold -/

theorem popByte_hold (h : s.popByte = .hold) : s.port.byteIn = [] ∧ s.port.byteInEos = false := by
  cases hin : s.port.byteIn with
  | cons b rest => rw [popByte_cons hin] at h; cases h
  | nil => rw [popByte_nil hin] at h; exact ⟨rfl, by simpa using h⟩

theorem popSym_hold (h : s.popSym = .hold) : s.port.symIn = [] ∧ s.port.symInEos = false := by
  cases hin : s.port.symIn with
  | cons u rest => rw [popSym_cons hin] at h; cases h
  | nil => rw [popSym_nil hin] at h; exact ⟨rfl, by simpa using h⟩

/-- A pop of SMP_IN holds where the port is empty and unmarked or, in RECV, where DUMP is full. -/
theorem popSmp_hold (h : s.popSmp recv = .hold) :
    s.SmpInEmpty ∨ (recv = true ∧ s.dumpEn = true ∧ s.par.depth.dump ≤ s.port.dump.length) := by
  cases hin : s.port.smpIn with
  | nil => rw [popSmp_nil hin] at h; exact .inl ⟨hin, by simpa using h⟩
  | cons u rest =>
    cases recv with
    | false => rw [popSmp_cons hin] at h; cases h
    | true =>
      by_contra hno
      rw [popSmp_recv_cons hin fun hen => not_le.1 fun hfull => hno (.inr ⟨rfl, hen, hfull⟩)] at h
      cases h

theorem popSample_hold (h : s.popSample recv = .hold) : s.popSmp recv = .hold := by
  cases hpop : s.popSmp recv with
  | hold => rfl
  | eos => rw [State.popSample, hpop] at h; cases h
  | got u t =>
    simp only [State.popSample, hpop] at h
    split at h
    · split at h <;> cases h
    · cases h

theorem fetch_hold {i : Int} (h : s.fetch recv i = .hold) : s.popSmp recv = .hold := by
  unfold State.fetch at h
  split at h
  · cases h
  · split at h
    · exact popSample_hold ‹_›
    all_goals cases h

/-- The pop a phase's rule waits for holds; `closing` has no rule. -/
def State.PopHolds (s : State) : Phase → Prop
  | .adv _ | .demod _ _ => s.popSmp false = .hold
  | .mod _ _ => s.popSym = .hold
  | .data => s.popByte = .hold
  | .skip _ | .search | .refine | .receive _ | .confirm _ => s.popSmp true = .hold
  | .closing => True
  | _ => False

/-- A phase's rule makes no step only where the pop it waits for holds. -/
theorem popHolds_of_stepPhase (h : s.stepPhase ph = none) : s.PopHolds ph := by
  cases ph with
  | adv left =>
    cases left with
    | zero => cases h
    | succ left =>
      simp only [State.stepPhase, State.stepAdv] at h
      split at h
      · exact fetch_hold ‹_›
      all_goals cases h
  | mod left syms =>
    cases left with
    | zero => cases h
    | succ left =>
      simp only [State.stepPhase, State.stepMod] at h
      split at h
      · assumption
      · cases h
      · split at h <;> cases h
  | demod left win =>
    cases left with
    | zero => cases h
    | succ left =>
      simp only [State.stepPhase, State.stepDemod] at h
      split at h
      · exact fetch_hold ‹_›
      · cases h
      · cases h
      · split at h <;> cases h
  | data =>
    simp only [State.stepPhase, State.stepData] at h
    split at h
    · assumption
    · cases h
    · split at h <;> cases h
  | skip left =>
    cases left with
    | zero => cases h
    | succ left =>
      simp only [State.stepPhase, State.stepSkip] at h
      split at h
      · exact popSample_hold ‹_›
      all_goals cases h
  | search =>
    simp only [State.stepPhase, State.stepSearch] at h
    split at h
    · cases h
    · split at h
      · exact fetch_hold ‹_›
      · cases h
      · cases h
      · split at h <;> cases h
  | refine =>
    simp only [State.stepPhase, State.stepRefine] at h
    split at h
    · cases h
    · split at h
      · exact fetch_hold ‹_›
      · cases h
      · cases h
      · split at h <;> cases h
  | receive win =>
    simp only [State.stepPhase, State.stepReceive] at h
    split at h
    · exact fetch_hold ‹_›
    · cases h
    · cases h
    · split at h <;> cases h
  | confirm left =>
    cases left with
    | zero => cases h
    | succ left =>
      simp only [State.stepPhase, State.stepConfirm] at h
      split at h
      · exact fetch_hold ‹_›
      all_goals cases h
  | lead left => cases left <;> cases h
  | emit queue last => cases queue <;> cases h
  | trail left => cases left <;> cases h
  | preamble i => simp only [State.stepPhase, State.stepPreamble] at h; split at h <;> cases h
  | pad => simp only [State.stepPhase, State.stepPad] at h; split at h <;> cases h
  | rxBits bits pilot =>
    simp only [State.stepPhase, State.stepRxBits] at h
    split at h
    · cases h
    · cases bits <;> cases h
  | calibrate => cases h
  | closing => trivial

/-- A fixed action waits only where it pushes to a full port (20_memory.md R108). -/
theorem full_of_perform (h : s.perform a = none) :
    (∃ u, a = .pushSmp u ∧ s.par.depth.smpOut ≤ s.port.smpOut.length) ∨
    (∃ u, a = .pushSym u ∧ s.par.depth.symOut ≤ s.port.symOut.length) ∨
    (∃ b, a = .pushByte b ∧ s.par.depth.byteOut ≤ s.port.byteOut.length) := by
  cases a with
  | pushSmp u => exact .inl ⟨u, rfl, by simpa [State.perform, State.pushSmp] using h⟩
  | pushSym u => exact .inr (.inl ⟨u, rfl, by simpa [State.perform, State.pushSym] using h⟩)
  | pushByte b => exact .inr (.inr ⟨b, rfl, by simpa [State.perform, State.pushByte] using h⟩)
  | _ => cases h

/-! ### Holds of a command -/

theorem holding_recv_of_popSmp (h : s.popSmp true = .hold) : s.Holding .recv :=
  (popSmp_hold h).imp_right fun ⟨_, hfull⟩ => .inr hfull

theorem smpInEmpty_of_popSmp (h : s.popSmp false = .hold) : s.SmpInEmpty :=
  (popSmp_hold h).resolve_right fun ⟨hno, _⟩ => nomatch hno

/-- RECV without a step holds, and not in its end. -/
theorem holding_recv (he : s.eng = .run .recv todo ph) (hp : recvPlace s.st.rx todo ph) (h : s.engineStep = none) :
    ph ≠ .closing ∧ s.Holding .recv := by
  cases todo with
  | nil =>
    rw [engineStep_phase he] at h
    have hpop := popHolds_of_stepPhase h
    cases ph with
    | skip | search | refine | receive | confirm => exact ⟨nofun, holding_recv_of_popSmp hpop⟩
    | closing =>
      obtain ⟨e, -, ⟨-, hno⟩ | ⟨-, hno⟩ | ⟨-, hno⟩⟩ := hp <;> cases hno
    | adv | mod | demod | data => exact hp.elim
    | _ => exact hpop.elim
  | cons a rest =>
    rw [engineStep_act he] at h
    have ha := ofRecv_of_recvPlace hp
    obtain ⟨u, rfl, -⟩ | ⟨u, rfl, -⟩ | ⟨b, rfl, hfull⟩ := full_of_perform h
    · cases ha
    · cases ha
    · rw [load_par, load_port] at hfull
      refine ⟨?_, .inr (.inl hfull)⟩
      rintro rfl
      obtain ⟨e, -, ⟨-, hno⟩ | ⟨-, hno⟩ | ⟨-, hno⟩⟩ := hp <;> cases hno

/-- The actions fixed in a command's own phases wait only at its own output port. -/
theorem holding_other_of_perform (hph : ph.belongs c = true) (ha : a.belongs c = true) (h : s.perform a = none) :
    s.Holding c := by
  have hnone (hc : c ∈ [Instr.nop, .srst, .calClear, .rsInit, .rsRatio]) : s.Holding c := by
    rw [belongs_false hc] at hph; cases hph
  obtain ⟨u, rfl, hfull⟩ | ⟨u, rfl, hfull⟩ | ⟨b, rfl, -⟩ := full_of_perform h
  · cases c with
    | send | mod | rsAdv => exact .inr hfull
    | demod => cases ha
    | recv => cases ph <;> cases hph
    | _ => exact hnone (by decide)
  · cases c with
    | demod => exact .inr hfull
    | _ => cases ha
  · cases ha

/-- Another command than RECV without a step holds, and not in its end. -/
theorem holding_other (he : s.eng = .run c todo ph) (hplace : otherPlace c todo ph) (h : s.engineStep = none) :
    ph ≠ .closing ∧ s.Holding c := by
  have hclosing (hph : ph.belongs c = true) : ph ≠ .closing := by rintro rfl; cases hph
  cases todo with
  | nil =>
    rw [engineStep_phase he] at h
    have hpop := popHolds_of_stepPhase h
    obtain ⟨hph, -⟩ | ⟨-, -, hno | hno⟩ := hplace
    · refine ⟨hclosing hph, ?_⟩
      cases ph with
      | adv left => obtain ⟨n, rfl⟩ := belongs_adv hph; exact .inl (smpInEmpty_of_popSmp hpop)
      | mod left syms => obtain ⟨n, rfl⟩ := belongs_mod hph; exact .inl (popSym_hold hpop)
      | demod left win => obtain ⟨n, rfl⟩ := belongs_demod hph; exact .inl (smpInEmpty_of_popSmp hpop)
      | data => obtain rfl : c = .send := of_decide_eq_true hph; exact .inl (popByte_hold hpop)
      | skip | search | refine | receive | confirm | closing => cases hph
      | _ => exact hpop.elim
    · cases hno
    · cases hno
  | cons a rest =>
    rw [engineStep_act he] at h
    obtain ⟨hph, hall⟩ | ⟨rfl, rfl, ha | ha⟩ := hplace
    · obtain ⟨ha, -⟩ := Bool.and_eq_true_iff.1 hall
      have hhold := holding_other_of_perform hph ha h
      rw [load_frame] at hhold
      exact ⟨hclosing hph, hhold⟩
    · cases ha; cases h
    · cases ha; cases h

/-- An executing engine that takes no step holds, and not in its command's end. -/
theorem holding_of_engineStep (he : s.eng = .run c todo ph) (hcons : s.EngineConsistent) (h : s.engineStep = none) :
    ph ≠ .closing ∧ s.Holding c := by
  by_cases hrecv : c = .recv
  · subst hrecv
    exact holding_recv he ((engineConsistent_recv he).1 hcons) h
  · exact holding_other he ((engineConsistent_other hrecv he).1 hcons).2 h

/-! ### Ends -/

/-- RECV fixes its clean-up and its end in its last phase alone (44_frame_rx.md R323). -/
theorem closing_of_recvPlace {r : RxState} {rest : List Act} (hp : recvPlace r (a :: rest) ph)
    (ha : a = .clearSmpIn ∨ ∃ e, a = .finish e) : ph = .closing := by
  cases ph with
  | closing => rfl
  | receive =>
    obtain ⟨-, hno | ⟨z, hno⟩⟩ := hp <;> cases hno
    obtain hno | ⟨e, hno⟩ := ha <;> cases hno
  | rxBits =>
    obtain ⟨-, hno | hno | hno | ⟨b, hno⟩⟩ := hp <;> cases hno <;> obtain hno | ⟨e, hno⟩ := ha <;> cases hno
  | confirm =>
    obtain ⟨-, hno⟩ | ⟨-, hno | ⟨z, hno⟩⟩ := hp <;> cases hno <;> obtain hno | ⟨e, hno⟩ := ha <;> cases hno
  | skip | search | refine | calibrate => cases hp.2
  | _ => exact hp.elim

/-- A command's end leaves RECV in a terminal state. -/
theorem endedAfter_of_endWith {e : Cause} (he : s.eng = .run c todo ph) (hcons : s.EngineConsistent)
    (h : s.engineStep = some (s.endWith e)) : (s.endWith e).EndedAfter c := by
  refine ⟨rfl, rfl, ?_⟩
  rintro rfl
  have hp := (engineConsistent_recv he).1 hcons
  cases todo with
  | nil =>
    have hph : ∀ c, ph.belongs c = false := fun c => by cases ph with
      | adv | mod | demod | lead | preamble | data | emit | pad | trail => exact hp.elim
      | _ => rfl
    rw [engineStep_phase he] at h
    have hbusy := stepRecv_busy hph h
    rw [endWith_busy, (busy_eq_true_iff s).2 ⟨_, _, _, he⟩] at hbusy
    cases hbusy
  | cons a rest =>
    rw [engineStep_act he] at h
    obtain ⟨e', rfl, -⟩ | ⟨heng, -⟩ := perform_control h
    · obtain rfl := closing_of_recvPlace hp (.inr ⟨e', rfl⟩)
      obtain ⟨⟨r, e⟩, hmem, ⟨-, ha⟩ | ⟨-, ha⟩ | ⟨hrx, -⟩⟩ := hp
      · cases ha
      · cases ha
      · have hends : ∀ e ∈ recvEnds, e.1 = .done ∨ e.1 = .truncated ∨ e.1 = .noCarrier := by decide
        rw [endWith_st, hrx]
        exact hends _ hmem
    · rw [endWith_eng, load_eng he] at heng
      cases heng

/-- A command executes: the engine stands in its rule. -/
def State.Executes (s : State) (c : Instr) : Prop := (∃ todo ph, s.eng = .run c todo ph) ∧ s.EngineConsistent

/-- A step of an executing command ends it, or it goes on executing with DONE as it was. -/
theorem executes_engineStep (hs : s.Executes c) (h : s.engineStep = some t) :
    t.EndedAfter c ∨ (t.Executes c ∧ t.st.done = s.st.done) := by
  obtain ⟨⟨todo, ph, he⟩, hcons⟩ := hs
  obtain ⟨e, rfl⟩ | ⟨hbusy, hst⟩ := engineStep_ends_or_goesOn h
  · exact .inl (endedAfter_of_endWith he hcons h)
  · obtain hidle | hrun := engineStep_command he h
    · rw [(busy_eq_false_iff t).2 hidle] at hbusy; cases hbusy
    · exact .inr ⟨⟨hrun, engineConsistent_engineStep h hcons⟩, by rw [hst]⟩

end

end Sys2Proof.Machine
end

section
/-! PROOFS. Every engine step lowers a rank, whatever the samples, the clock and the arithmetic, as long as the blocks of
RECEIVING are paid for from a budget (70_reset_and_hazards.md R415: every loop is bounded by n, by the configuration, or by
units taken). -/

namespace Sys2Proof.Machine

section
variable {s t u : State} {c : Instr} {a : Act} {ph q : Phase} {todo todo' : List Act} {β : State → ℕ}

/-! ### The rank -/

/-- How far a phase is from the end of its command's rule: a command comes back to no phase of a higher stage. -/
def Phase.stage : Phase → ℕ
  | .skip _ => 7
  | .lead _ | .search => 6
  | .preamble _ | .refine => 5
  | .data | .emit _ false | .calibrate => 4
  | .emit _ true | .receive _ | .rxBits _ _ => 3
  | .pad => 2
  | .trail _ | .confirm _ => 1
  | .adv _ | .mod _ _ | .demod _ _ | .closing => 0

/-- The passes left of a phase's own loop, `blocks` the ones of RECEIVING's. -/
def State.passes (s : State) (blocks : ℕ) : Phase → ℕ
  | .adv left | .demod left _ | .lead left | .trail left | .skip left | .confirm left => left
  | .mod _ _ => s.port.symIn.length
  | .preamble i => s.nTrain - i
  | .data | .emit _ false => s.port.byteIn.length
  | .search | .refine => s.searchLimit - s.rx.d
  | .receive _ | .rxBits _ _ => blocks
  | _ => 0

/-- The steps left of the pass at hand, but for units and fixed actions: samples of a window, bytes of a queue, bits of a
block. -/
def State.within (s : State) : Phase → ℕ
  | .demod _ win | .receive win => s.nSym - win.length
  | .emit queue _ => queue.length + 1
  | .rxBits bits _ => s.nSym + 1 + bits.length
  | _ => 0

/-- The rank of an executing engine, `β` the budget of blocks: stage, passes, steps of the pass, units and fixed actions. -/
def State.rank (β : State → ℕ) (s : State) : ℕ ×ₗ ℕ ×ₗ ℕ ×ₗ ℕ :=
  match s.eng with
  | .idle => toLex (0, toLex (0, toLex (0, 0)))
  | .run _ todo ph =>
    toLex (ph.stage, toLex (s.passes (β s) ph, toLex (s.within ph, s.port.smpIn.length + todo.length)))

/-- A block begins to be parsed. -/
def blockBegun : Phase → Phase → ℕ
  | .receive _, .rxBits _ _ => 1
  | _, _ => 0

/-- A step that demodulates a block pays for it from the budget, and no other step of RECEIVING raises the budget. -/
def Pays (β : State → ℕ) (s t : State) : Prop :=
  ∀ c todo ph todo' ph', s.eng = .run c todo ph → t.eng = .run c todo' ph' → ph.receiving = true →
    ph'.receiving = true → β t + blockBegun ph ph' ≤ β s

theorem rank_lt (hs : s.eng = .run c todo ph) (ht : t.eng = .run c todo' q)
    (h : q.stage < ph.stage ∨ q.stage ≤ ph.stage ∧ (t.passes (β t) q < s.passes (β s) ph ∨
      t.passes (β t) q ≤ s.passes (β s) ph ∧ (t.within q < s.within ph ∨
      t.within q ≤ s.within ph ∧ t.port.smpIn.length + todo'.length < s.port.smpIn.length + todo.length))) :
    t.rank β < s.rank β := by
  simp only [State.rank, hs, ht, Prod.Lex.toLex_lt_toLex]
  omega

/-! ### Steps within a phase -/

/-- Where nothing arrives and the codec stays, no passes are added. -/
theorem passes_le (hshrink : InputsShrink s t) (hcfg : t.cfg = s.cfg) (hrx : t.rx = s.rx) (m n : ℕ)
    (hblocks : ph.receiving = true → n ≤ m) : t.passes n ph ≤ s.passes m ph := by
  cases ph with
  | mod => exact hshrink.symIn
  | data => exact hshrink.byteIn
  | emit queue last =>
    cases last with
    | false => exact hshrink.byteIn
    | true => exact le_rfl
  | preamble => simp [State.passes, State.nTrain, hcfg]
  | search | refine => simp [State.passes, State.searchLimit, hcfg, hrx]
  | receive | rxBits => exact hblocks rfl
  | _ => exact le_rfl

theorem within_congr (hcfg : t.cfg = s.cfg) (ph : Phase) : t.within ph = s.within ph := by
  cases ph <;> simp only [State.within, State.nSym, hcfg]

/-- A step that stays in its phase lowers the rank where it takes a unit or performs an action. -/
theorem rank_stay (hs : s.eng = .run c todo ph) (ht : t.eng = .run c todo' ph) (h : s.engineStep = some t)
    (hrx : t.rx = s.rx) (hpays : Pays β s t)
    (hlt : t.port.smpIn.length + todo'.length < s.port.smpIn.length + todo.length) : t.rank β < s.rank β := by
  have hcfg := (keepsSetup_engineStep h).cfg
  have hpasses := passes_le (inputsShrink_engineStep h) hcfg hrx (β s) (β t)
    fun hph => (Nat.le_add_right _ _).trans (hpays _ _ _ _ _ hs ht hph hph)
  have hwithin := within_congr hcfg ph
  exact rank_lt hs ht (by omega)

theorem rank_popSample {recv : Bool} {x : Option Scalar} (hs : s.eng = .run c [] ph) (h : s.engineStep = some t)
    (hpop : s.popSample recv = .got x t) (hpays : Pays β s t) : t.rank β < s.rank β := by
  obtain ⟨heng, -, hrx⟩ := popSample_control hpop
  obtain ⟨u, hin⟩ := popSample_smpIn hpop
  exact rank_stay hs (heng.trans hs) h hrx hpays (by rw [hin]; simp)

theorem rank_fetch {recv : Bool} {i : Int} (hs : s.eng = .run c [] ph) (h : s.engineStep = some t)
    (hf : s.fetch recv i = .progress t) (hpays : Pays β s t) : t.rank β < s.rank β := by
  obtain ⟨-, hpop | ⟨x, v, hpop, rfl⟩⟩ := fetch_progress hf
  · exact rank_popSample hs h hpop hpays
  · obtain ⟨heng, -, hrx⟩ := popSample_control hpop
    obtain ⟨u, hin⟩ := popSample_smpIn hpop
    exact rank_stay hs (heng.trans hs) h hrx hpays (by rw [hin]; simp)

theorem rank_perform {rest : List Act} (hs : s.eng = .run c (a :: rest) ph) (h : s.engineStep = some t)
    (hpays : Pays β s t) : t.eng = .idle ∨ t.rank β < s.rank β := by
  have hin := (inputsShrink_engineStep h).smpIn
  rw [engineStep_act hs] at h
  obtain ⟨e, -, rfl⟩ | ⟨heng, hrx, -⟩ := perform_control h
  · exact .inl rfl
  · rw [load_rx] at hrx
    exact .inr (rank_stay hs (heng.trans (load_eng hs _ _)) ((engineStep_act hs).trans h) hrx hpays
      (by rw [List.length_cons]; omega))

/-! ### Steps of the rules -/

/-- A change of place lowers the rank where it lowers stage, passes or steps of the pass. -/
theorem rank_load (hs : s.eng = .run c [] ph) (heng : u.eng = s.eng)
    (h : q.stage < ph.stage ∨ q.stage ≤ ph.stage ∧ (u.passes (β (u.load todo q)) q < s.passes (β s) ph ∨
      u.passes (β (u.load todo q)) q ≤ s.passes (β s) ph ∧ u.within q < s.within ph)) :
    (u.load todo q).rank β < s.rank β := by
  have ht := load_eng (heng.trans hs) todo q
  refine rank_lt hs ht ?_
  have hpasses : (u.load todo q).passes (β (u.load todo q)) q = u.passes (β (u.load todo q)) q := by
    generalize β (u.load todo q) = n
    rw [load_frame]
    cases q <;> rfl
  have hwithin : (u.load todo q).within q = u.within q := within_congr (load_cfg _ _ _) q
  rw [hpasses, hwithin]
  omega

theorem rank_load_of_stage (hs : s.eng = .run c [] ph) (heng : u.eng = s.eng) (h : q.stage < ph.stage) :
    (u.load todo q).rank β < s.rank β :=
  rank_load hs heng (.inl h)

theorem rank_load_of_passes (hs : s.eng = .run c [] ph) (heng : u.eng = s.eng) (hstage : q.stage ≤ ph.stage)
    (h : u.passes (β (u.load todo q)) q < s.passes (β s) ph) : (u.load todo q).rank β < s.rank β :=
  rank_load hs heng (.inr ⟨hstage, .inl h⟩)

theorem rank_load_of_within (hs : s.eng = .run c [] ph) (heng : u.eng = s.eng) (hstage : q.stage ≤ ph.stage)
    (hpasses : u.passes (β (u.load todo q)) q ≤ s.passes (β s) ph) (h : u.within q < s.within ph) :
    (u.load todo q).rank β < s.rank β :=
  rank_load hs heng (.inr ⟨hstage, .inr ⟨hpasses, h⟩⟩)

/-- A window that is not whole lacks fewer samples with one more. -/
theorem window_shrinks {n : ℕ} {win : List Scalar} {x : Scalar} (h : (win ++ [x]).length < n) :
    n - (win ++ [x]).length < n - win.length := by
  rw [List.length_append, List.length_singleton] at *
  omega

/-- A step of SEND's rule lowers the rank: silence, training blocks, payload bytes and framed bytes are used up. -/
theorem rank_stepSend (hs : s.eng = .run c [] ph) (hph : ph.belongs .send = true) (h : s.stepPhase ph = some t) :
    t.rank β < s.rank β := by
  cases ph with
  | lead left =>
    cases left with
    | zero => cases h; exact rank_load_of_stage hs rfl (by simp [Phase.stage])
    | succ left => cases h; exact rank_load_of_passes hs rfl le_rfl (Nat.lt_succ_self _)
  | preamble i =>
    simp only [State.stepPhase, State.stepPreamble] at h
    split at h <;> cases h
    · exact rank_load_of_passes hs rfl le_rfl (by simp only [State.passes]; omega)
    · exact rank_load_of_stage hs rfl (by simp [Phase.stage])
  | data =>
    simp only [State.stepPhase, State.stepData] at h
    split at h
    · cases h
    · cases h; exact rank_load_of_stage hs rfl (by simp [Phase.stage])
    · next b v hpop =>
      obtain ⟨hin, hv⟩ := popByte_got hpop
      have heng : v.eng = s.eng := by rw [hv]
      have hlt : v.port.byteIn.length < s.port.byteIn.length := by rw [hin]; exact Nat.lt_succ_self _
      split at h <;> cases h <;> exact rank_load_of_passes hs heng le_rfl hlt
  | emit queue last =>
    cases queue with
    | nil =>
      cases h
      cases last with
      | false => exact rank_load_of_within hs rfl le_rfl le_rfl Nat.one_pos
      | true => exact rank_load_of_stage hs rfl (by simp [Phase.stage])
    | cons b rest => cases h; cases last <;> exact rank_load_of_within hs rfl le_rfl le_rfl (Nat.lt_succ_self _)
  | pad =>
    simp only [State.stepPhase, State.stepPad] at h
    split at h <;> cases h <;> exact rank_load_of_stage hs rfl (by simp [Phase.stage])
  | trail left =>
    cases left with
    | zero => cases h; exact rank_load_of_stage hs rfl (by simp [Phase.stage])
    | succ left => cases h; exact rank_load_of_passes hs rfl le_rfl (Nat.lt_succ_self _)
  | _ => cases hph

/-- A step of RECV's rule lowers the rank: samples to skip, offsets to search and samples to confirm are used up, and the
blocks of RECEIVING are paid for. -/
theorem rank_stepRecv (hs : s.eng = .run c [] ph) (hph : ∀ c, ph.belongs c = false) (hpays : Pays β s t)
    (h : s.stepPhase ph = some t) : t.rank β < s.rank β := by
  have hstep : s.engineStep = some t := (engineStep_phase hs).trans h
  have hbudget {todo' : List Act} {q : Phase} (ht : t.eng = .run c todo' q) (hrec : ph.receiving = true)
      (hrec' : q.receiving = true) : β t + blockBegun ph q ≤ β s := hpays _ _ _ _ _ hs ht hrec hrec'
  cases ph with
  | skip left =>
    cases left with
    | zero => cases h; exact rank_load_of_stage hs rfl (by simp [Phase.stage])
    | succ left =>
      simp only [State.stepPhase, State.stepSkip] at h
      split at h <;> cases h
      · exact rank_load_of_stage hs rfl (by simp [Phase.stage])
      · exact rank_popSample hs hstep ‹_› hpays
      · exact rank_load_of_passes hs (popSample_control ‹_›).1 le_rfl (Nat.lt_succ_self _)
  | search =>
    simp only [State.stepPhase, State.stepSearch] at h
    split at h
    · cases h; exact rank_load_of_stage hs rfl (by simp [Phase.stage])
    · split at h
      · cases h
      · cases h; exact rank_load_of_stage hs rfl (by simp [Phase.stage])
      · cases h; exact rank_fetch hs hstep ‹_› hpays
      · split at h <;> cases h
        · exact rank_load_of_stage hs rfl (by simp [Phase.stage])
        · exact rank_lt hs hs (.inr ⟨le_rfl, .inl (by simp only [State.passes, State.searchLimit] at *; omega)⟩)
  | refine =>
    simp only [State.stepPhase, State.stepRefine] at h
    split at h
    · cases h; exact rank_load_of_stage hs rfl (by simp [Phase.stage])
    · split at h
      · cases h
      · cases h; exact rank_load_of_stage hs rfl (by simp [Phase.stage])
      · cases h; exact rank_fetch hs hstep ‹_› hpays
      · split at h <;> cases h <;>
          exact rank_lt hs hs (.inr ⟨le_rfl, .inl (by simp only [State.passes, State.searchLimit] at *; omega)⟩)
  | calibrate => cases h; exact rank_load_of_stage hs rfl (by simp [Phase.stage])
  | receive win =>
    simp only [State.stepPhase, State.stepReceive] at h
    split at h
    · cases h
    · cases h; exact rank_load_of_stage hs rfl (by simp [Phase.stage])
    · cases h; exact rank_fetch hs hstep ‹_› hpays
    · split at h <;> cases h
      · exact rank_load_of_passes hs rfl le_rfl (hbudget (load_eng (s := s.rsStep) hs _ _) rfl rfl)
      · exact rank_load_of_within hs rfl le_rfl (hbudget (load_eng (s := s.rsStep) hs _ _) rfl rfl)
          (window_shrinks (not_le.1 ‹_›))
  | rxBits bits pilot =>
    simp only [State.stepPhase, State.stepRxBits] at h
    split at h
    · cases h; exact rank_load_of_stage hs rfl (by simp [Phase.stage])
    · cases bits <;> cases h
      · exact rank_load_of_within hs rfl le_rfl (hbudget (load_eng hs _ _) rfl rfl) (by simp [State.within])
      · exact rank_load_of_within hs rfl le_rfl (hbudget (load_eng (s := { s with rx := (s.rx.rxBit _).1 }) hs _ _) rfl rfl)
          (Nat.lt_succ_self _)
  | confirm left =>
    cases left with
    | zero => cases h; exact rank_load_of_stage hs rfl (by simp [Phase.stage])
    | succ left =>
      simp only [State.stepPhase, State.stepConfirm] at h
      split at h <;> cases h
      · exact rank_load_of_stage hs rfl (by simp [Phase.stage])
      · exact rank_fetch hs hstep ‹_› hpays
      · exact rank_load_of_passes hs rfl le_rfl (Nat.lt_succ_self _)
  | closing => cases h
  | adv => cases hph (.rsAdv 0)
  | mod => cases hph (.mod 0)
  | demod => cases hph (.demod 0)
  | _ => cases hph .send

/-- A step of a rule ends the command or lowers the rank: samples, symbols and blocks to produce are used up. -/
theorem rank_stepPhase (hs : s.eng = .run c [] ph) (hpays : Pays β s t) (h : s.stepPhase ph = some t) :
    t.eng = .idle ∨ t.rank β < s.rank β := by
  have hstep : s.engineStep = some t := (engineStep_phase hs).trans h
  cases ph with
  | adv left =>
    cases left with
    | zero => cases h; exact .inl rfl
    | succ left =>
      simp only [State.stepPhase, State.stepAdv] at h
      split at h <;> cases h
      · exact .inl rfl
      · exact .inr (rank_fetch hs hstep ‹_› hpays)
      · exact .inr (rank_load_of_passes hs rfl le_rfl (Nat.lt_succ_self _))
  | mod left syms =>
    cases left with
    | zero => cases h; exact .inl rfl
    | succ left =>
      simp only [State.stepPhase, State.stepMod] at h
      split at h
      · cases h
      · cases h; exact .inl rfl
      · next x v hpop =>
        obtain ⟨hin, hv⟩ := popSym_got hpop
        have heng : v.eng = s.eng := by rw [hv]
        have hlt : v.port.symIn.length < s.port.symIn.length := by rw [hin]; exact Nat.lt_succ_self _
        split at h <;> cases h <;> exact .inr (rank_load_of_passes hs heng le_rfl hlt)
  | demod left win =>
    cases left with
    | zero => cases h; exact .inl rfl
    | succ left =>
      simp only [State.stepPhase, State.stepDemod] at h
      split at h
      · cases h
      · cases h; exact .inl rfl
      · cases h; exact .inr (rank_fetch hs hstep ‹_› hpays)
      · split at h <;> cases h
        · exact .inr (rank_load_of_passes hs rfl le_rfl (Nat.lt_succ_self _))
        · exact .inr (rank_load_of_within hs rfl le_rfl le_rfl (window_shrinks (not_le.1 ‹_›)))
  | lead | preamble | data | emit | pad | trail => exact .inr (rank_stepSend hs rfl h)
  | _ => exact .inr (rank_stepRecv hs (fun _ => rfl) hpays h)

/-- An engine step ends the command or lowers the rank. -/
theorem rank_engineStep (hs : s.eng = .run c todo ph) (hpays : Pays β s t) (h : s.engineStep = some t) :
    t.eng = .idle ∨ t.rank β < s.rank β := by
  cases todo with
  | nil => exact rank_stepPhase hs hpays ((engineStep_phase hs).symm.trans h)
  | cons a rest => exact rank_perform hs h hpays

/-- A run whose steps pay for their blocks comes to a state that takes no step. -/
theorem exists_rest {P : State → Prop} (hkeep : ∀ s t, P s → s.engineStep = some t → P t)
    (hpays : ∀ s t, P s → s.engineStep = some t → Pays β s t) (hs : P s) :
    ∃ k, (State.runEngine k s).engineStep = none := by
  induction hr : s.rank β using WellFoundedLT.induction generalizing s with
  | ind r ih =>
    subst hr
    cases h : s.engineStep with
    | none => exact ⟨0, h⟩
    | some t =>
      have hrest : ∃ k, (State.runEngine k t).engineStep = none := by
        cases he : s.eng with
        | idle => rw [engineStep_idle he] at h; cases h
        | run c todo ph =>
          obtain hidle | hlt := rank_engineStep he (hpays s t hs h) h
          · exact ⟨0, engineStep_idle hidle⟩
          · exact ih _ hlt (hkeep s t hs h) rfl
      obtain ⟨k, hk⟩ := hrest
      exact ⟨k + 1, by rwa [runEngine_some h]⟩

end

end Sys2Proof.Machine
end

section
/-! PROOFS. A command's engine comes to its end or to a hold in finitely many steps: RECEIVING's blocks are paid for by the
bits that fill BYTE_OUT or bring the sentinel (70_reset_and_hazards.md R415; 44_frame_rx.md R312 to R315, R334). -/

namespace Sys2Proof.Machine

section
variable {s t : State} {c : Instr} {ph ph' : Phase} {todo todo' : List Act}

/-! ### The steps of RECEIVING -/

/-- What an engine step does that begins and ends in RECEIVING, with the blocks it slices (44_frame_rx.md R312). -/
inductive ReceivingStep (s : State) : ℕ → State → Prop
  /-- A unit taken for the window's next sample. -/
  | unit {win t} : s.eng = .run .recv [] (.receive win) → s.fetch true s.rsNeed = .progress t → ReceivingStep s 0 t
  /-- A sample of a window that stays short. -/
  | sample {win} : s.eng = .run .recv [] (.receive win) →
    ReceivingStep s 0 { s.rsStep with eng := .run .recv [] (.receive (win ++ [s.rsValue])) }
  /-- A window's last sample: the block is sliced. -/
  | block {win} (z : Cx) : s.eng = .run .recv [] (.receive win) → s.rsNeed < s.rs.buf.length →
    s.nSym ≤ win.length + 1 → ReceivingStep s 1 { s.rsStep with
      eng := .run .recv [.blockUp] (.rxBits (s.slicedBits (s.calibrated s.rx.gains (win ++ [s.rsValue]))) z) }
  /-- A bit parsed. -/
  | bit {b bits z} : s.eng = .run .recv [] (.rxBits (b :: bits) z) → s.rx.sentinel = false →
    ReceivingStep s 0 { s with
      eng := .run .recv (deliver (s.rx.rxBit b).2) (.rxBits bits z)
      rx := (s.rx.rxBit b).1 }
  /-- The block's bits are parsed. -/
  | blockEnd {z} : s.eng = .run .recv [] (.rxBits [] z) →
    ReceivingStep s 0 { s with eng := .run .recv [.track z] (.receive []) }
  /-- The tracking update before the next window. -/
  | track {win z} : s.eng = .run .recv [.track z] (.receive win) →
    ReceivingStep s 0 (State.track { s with eng := .run .recv [] (.receive win) } z)
  /-- A payload byte delivered. -/
  | deliver {b bits z} : s.eng = .run .recv [.pushByte b, .countUp] (.rxBits bits z) →
    s.port.byteOut.length < s.par.depth.byteOut →
    ReceivingStep s 0 { s with
      eng := .run .recv [.countUp] (.rxBits bits z)
      port := { s.port with byteOut := s.port.byteOut ++ [b] } }
  /-- A byte or the block counted. -/
  | count {a bits z} (reg : Progress) : s.eng = .run .recv [a] (.rxBits bits z) → a = .countUp ∨ a = .blockUp →
    ReceivingStep s 0 { s with eng := .run .recv [] (.rxBits bits z), reg := reg }

/-- Only RECV stands in RECEIVING. -/
theorem recv_of_receiving (hs : s.eng = .run c todo ph) (hcons : s.EngineConsistent) (hph : ph.receiving = true) :
    c = .recv := by
  by_contra hne
  obtain ⟨-, ⟨hno, -⟩ | ⟨-, rfl, -⟩⟩ := (engineConsistent_other hne hs).1 hcons
  · cases ph <;> cases hph <;> cases c <;> cases hno
  · cases hph

theorem receivingStep_of_phase (hs : s.eng = .run .recv [] ph) (ht : t.eng = .run .recv todo' ph')
    (hph : ph.receiving = true) (hph' : ph'.receiving = true) (h : s.engineStep = some t) :
    ReceivingStep s (blockBegun ph ph') t := by
  cases ph with
  | receive win =>
    obtain ⟨hunit, hsample⟩ := stepReceive_cases hs
    cases hf : s.fetch true s.rsNeed with
    | progress v =>
      obtain rfl := Option.some.inj ((hunit v hf).symm.trans h)
      rw [(fetch_control hf).1, hs] at ht
      cases ht
      exact .unit hs hf
    | ready =>
      have hready := fetch_ready.1 hf
      obtain rfl := Option.some.inj ((hsample hready).symm.trans h)
      rw [State.windowPlace] at ht ⊢
      split at ht <;> cases ht
      · rw [if_pos ‹_›]
        exact .block _ hs hready (by simpa using ‹s.nSym ≤ (win ++ [s.rsValue]).length›)
      · rw [if_neg ‹_›]
        exact .sample hs
    | hold => rw [engineStep_phase hs, State.stepPhase, State.stepReceive, hf] at h; cases h
    | eos =>
      rw [engineStep_phase hs, stepReceive_eos hf, State.endTruncated, load_run hs] at h
      cases h; cases ht; cases hph'
  | rxBits bits pilot =>
    rw [engineStep_phase hs] at h
    simp only [State.stepPhase, State.stepRxBits] at h
    split at h
    · rw [load_run hs] at h
      cases h; cases ht; cases hph'
    · cases bits with
      | nil => rw [load_run hs] at h; cases h; exact .blockEnd hs
      | cons b bits =>
        have hload := load_run (s := { s with rx := (s.rx.rxBit b).1 }) hs
        cases h
        rw [hload]
        exact .bit hs (Bool.eq_false_iff.2 ‹_›)
  | _ => cases hph

theorem receivingStep_of_act {a : Act} {rest : List Act} (hs : s.eng = .run .recv (a :: rest) ph)
    (ht : t.eng = .run .recv todo' ph') (hp : recvPlace s.st.rx (a :: rest) ph) (hph : ph.receiving = true)
    (h : s.engineStep = some t) : ReceivingStep s (blockBegun ph ph') t := by
  rw [engineStep_act hs, load_run hs] at h
  cases ph with
  | receive win =>
    obtain ⟨-, hno | ⟨z, ha⟩⟩ := hp
    · cases hno
    · cases ha; cases h; cases ht; exact .track hs
  | rxBits bits pilot =>
    obtain ⟨-, hno | ha | ha | ⟨b, ha⟩⟩ := hp
    · cases hno
    · cases ha; cases h; exact .count _ hs (.inr rfl)
    · cases ha; cases h; exact .count _ hs (.inl rfl)
    · cases ha
      obtain ⟨hroom, rfl⟩ := pushByte_eq_some.1 h
      exact .deliver hs hroom
  | _ => cases hph

/-- A budget that every step of RECEIVING keeps, or lowers by the blocks it slices, pays for the blocks. -/
theorem pays_of_receivingStep {β : State → ℕ} (hcons : s.EngineConsistent) (h : s.engineStep = some t)
    (hstep : ∀ n, ReceivingStep s n t → β t + n ≤ β s) : Pays β s t := by
  intro c todo ph todo' ph' hs ht hph hph'
  obtain rfl := recv_of_receiving hs hcons hph
  refine hstep _ ?_
  cases todo with
  | nil => exact receivingStep_of_phase hs ht hph hph' h
  | cons a rest => exact receivingStep_of_act hs ht ((engineConsistent_recv hs).1 hcons) hph h

/-! ### The bits until BYTE_OUT is full -/

/-- A bound of the bits RxBit may parse until the sentinel is decoded or `room` payload bytes are delivered: sixteen a byte,
since a header byte delivers none, and those of the byte at hand; two more, to be above the 1 of a decoded sentinel
(44_frame_rx.md R313, R314). -/
def RxCodec.bitsLeft (r : RxCodec) (room : ℕ) : ℕ :=
  if r.sentinel then 1 else 16 * room + (if r.hdr then 18 else 10) - r.rbits.length

theorem bitsLeft_pos (r : RxCodec) (h : r.rbits.length < 8) (room : ℕ) : 0 < r.bitsLeft room := by
  unfold RxCodec.bitsLeft
  split
  · exact one_pos
  · split <;> omega

/-- A byte parsed brings the sentinel, or a payload byte, or the bytes of a chunk. -/
theorem bitsLeft_parseByte {r : RxCodec} (hs : r.sentinel = false) (hbits : r.rbits = []) (v : Byte) (room : ℕ) :
    (r.parseByte v).1.bitsLeft (room + 1 - (r.parseByte v).2.toList.length) + 8 ≤
      16 * (room + 1) + (if r.hdr then 18 else 10) := by
  cases hh : r.hdr with
  | false =>
    rw [parseByte_payload hh]
    simp only [RxCodec.bitsLeft, hs, hbits, Bool.false_eq_true, if_false, decide_eq_true_eq, Option.toList_some,
      List.length_singleton, List.length_nil]
    split <;> omega
  | true =>
    by_cases hv : v = 0
    · subst hv
      rw [parseByte_zero hh]
      simp [RxCodec.bitsLeft]
    · rw [parseByte_header hh hv]
      simp [RxCodec.bitsLeft, hs, hbits]

/-- Every bit parsed leaves fewer, the bytes delivered paid for from the room. -/
theorem bitsLeft_rxBit {r : RxCodec} (hs : r.sentinel = false) (hbits : r.rbits.length < 8) (b : Bool) (room : ℕ) :
    (r.rxBit b).1.bitsLeft (room + 1 - (r.rxBit b).2.toList.length) < r.bitsLeft (room + 1) := by
  have hlen : (r.rbits ++ [b]).length = r.rbits.length + 1 := by simp
  have hleft : r.bitsLeft (room + 1) = 16 * (room + 1) + (if r.hdr then 18 else 10) - r.rbits.length := by
    rw [RxCodec.bitsLeft, if_neg (by simp [hs])]
  unfold RxCodec.rxBit
  dsimp only
  split
  · have := bitsLeft_parseByte (r := { r with rbits := [] }) hs rfl (byteOfBits (r.rbits ++ [b])) room
    dsimp only at this
    omega
  · rw [hleft]
    simp only [RxCodec.bitsLeft, hs, Option.toList_none, List.length_nil, hlen]
    simp only [Bool.false_eq_true, if_false]
    split <;> omega

/-- The payload byte about to be delivered. -/
def Eng.pendingByte : Eng → ℕ
  | .run _ (.pushByte _ :: _) _ => 1
  | _ => 0

/-- The bits of the block still to parse. -/
def Eng.pendingBits : Eng → ℕ
  | .run _ _ (.rxBits bits _) => bits.length
  | _ => 0

/-- The bits RECEIVING may demodulate until it holds at BYTE_OUT or confirms, those of the block at hand taken off. -/
def State.bitBudget (s : State) : ℕ :=
  s.rx.bitsLeft (s.par.depth.byteOut - s.port.byteOut.length + 1 - s.eng.pendingByte) - s.eng.pendingBits

theorem pendingByte_deliver (c : Instr) (o : Option Byte) (ph : Phase) :
    (Eng.run c (deliver o) ph).pendingByte = o.toList.length := by
  cases o <;> rfl

/-- The codec, the room and what is pending set the budget. -/
theorem bitBudget_le (hpar : t.par = s.par) (hout : t.port.byteOut = s.port.byteOut) (hrx : t.rx = s.rx)
    (hbyte : t.eng.pendingByte = s.eng.pendingByte) (hbits : s.eng.pendingBits ≤ t.eng.pendingBits) :
    t.bitBudget ≤ s.bitBudget := by
  rw [State.bitBudget, State.bitBudget, hpar, hout, hrx, hbyte]
  exact Nat.sub_le_sub_left hbits _

/-- A block has a bit at least: a carrier, and a bit a carrier (45_control.md R346, R347). -/
theorem blockBits_pos (h : s.checks .recv = true) : 0 < s.nCar * s.nBit := by
  simp only [State.checks, State.carrierCheck, State.constellationCheck, Bool.and_eq_true, decide_eq_true_eq] at h
  obtain ⟨⟨⟨⟨⟨⟨⟨⟨⟨hcar, -⟩, -⟩, -⟩, -⟩, ⟨⟨⟨hbit, -⟩, -⟩, -⟩⟩, -⟩, -⟩, -⟩, -⟩ := h
  exact Nat.mul_pos hcar hbit

/-- Calibration gives a symbol a gain and carrier. -/
theorem length_calibrated (s : State) (gains : List Cx) (w : List Scalar) :
    (s.calibrated gains w).length = min gains.length s.nCar := by
  simp [State.calibrated, State.projAll]

/-- A block's bits are taken off the budget when it is sliced, and parsed one after another. -/
theorem bitBudget_receivingStep {n : ℕ} (hcodec : s.CodecConsistent) (hchecks : s.ChecksHold)
    (h : ReceivingStep s n t) : t.bitBudget + n ≤ s.bitBudget := by
  cases h with
  | unit he hf =>
    obtain ⟨-, hpop | ⟨x, v, hpop, rfl⟩⟩ := fetch_progress hf <;>
      obtain ⟨heng, -, hrx⟩ := popSample_control hpop <;>
      have hframe := popSample_frame hpop
    · exact bitBudget_le (by rw [hframe]) (by rw [hframe]) hrx (by rw [heng]) (by rw [heng])
    · exact bitBudget_le (by rw [hframe]; rfl) (by rw [hframe]; rfl) hrx
        (congrArg _ heng) (congrArg Eng.pendingBits heng).ge
  | @block win z he =>
    have hbits : 0 < (s.slicedBits (s.calibrated s.rx.gains (win ++ [s.rsValue]))).length := by
      rw [length_slicedBits, length_calibrated, hcodec.gains _ _ _ he rfl, min_self]
      exact blockBits_pos (hchecks _ _ _ he)
    have hpos := bitsLeft_pos s.rx hcodec.bits (s.par.depth.byteOut - s.port.byteOut.length + 1)
    simp only [State.bitBudget, he]
    exact Nat.sub_lt hpos hbits
  | @bit b bits z he hs =>
    have hlt := bitsLeft_rxBit hs hcodec.bits b (s.par.depth.byteOut - s.port.byteOut.length)
    have hbyte := pendingByte_deliver .recv (s.rx.rxBit b).2 (.rxBits bits z)
    simp only [State.bitBudget, he, hbyte]
    simp only [Eng.pendingByte, Eng.pendingBits, List.length_cons, Nat.sub_zero]
    omega
  | deliver he hroom =>
    have hleft : s.par.depth.byteOut - (s.port.byteOut.length + 1) + 1 =
        s.par.depth.byteOut - s.port.byteOut.length := by omega
    simp [State.bitBudget, he, Eng.pendingByte, Eng.pendingBits, hleft]
  | count reg he ha =>
    refine bitBudget_le rfl rfl rfl ?_ (by rw [he]; exact le_rfl)
    obtain rfl | rfl := ha <;> rw [he] <;> rfl
  | sample he | blockEnd he | track he => exact bitBudget_le rfl rfl rfl (by rw [he]; rfl) (by rw [he]; exact le_rfl)

theorem pays_bitBudget (hcons : s.EngineConsistent) (hcodec : s.CodecConsistent) (hchecks : s.ChecksHold)
    (h : s.engineStep = some t) : Pays State.bitBudget s t :=
  pays_of_receivingStep hcons h fun _ => bitBudget_receivingStep hcodec hchecks

/-! ### The end or a hold -/

/-- An executing command's run ends, or goes on executing with DONE as it was. -/
theorem executes_runEngine (hs : s.Executes c) (k : ℕ) :
    (State.runEngine k s).EndedAfter c ∨
      ((State.runEngine k s).Executes c ∧ (State.runEngine k s).st.done = s.st.done) := by
  refine runEngine_keeps (P := fun v => v.EndedAfter c ∨ (v.Executes c ∧ v.st.done = s.st.done)) (fun v w hv hw => ?_) k
    (.inr ⟨hs, rfl⟩)
  obtain ⟨hidle, -⟩ | ⟨hv, hdone⟩ := hv
  · rw [engineStep_idle ((busy_eq_false_iff v).1 hidle)] at hw; cases hw
  · exact (executes_engineStep hv hw).imp_right fun ⟨hw, hdone'⟩ => ⟨hw, hdone'.trans hdone⟩

end

/-- Settles O47: every step lowers the rank, RECEIVING's blocks paid for by the bits until BYTE_OUT is full; where no step is
left the command has ended or holds. -/
theorem engineEndsOrHolds : Obligations.EngineEndsOrHolds := by
  unfold Obligations.EngineEndsOrHolds
  intro s c todo ph he hcons hcodec hchecks
  obtain ⟨k, hrest⟩ := exists_rest (β := State.bitBudget)
    (P := fun v => v.EngineConsistent ∧ v.CodecConsistent ∧ v.ChecksHold)
    (fun v w ⟨hv, hc, hk⟩ h =>
      ⟨engineConsistent_engineStep h hv, codecConsistent_engineStep h hc, checksHold_engineStep h hv hk⟩)
    (fun v w ⟨hv, hc, hk⟩ => pays_bitBudget hv hc hk) ⟨hcons, hcodec, hchecks⟩
  refine ⟨k, hrest, ?_⟩
  obtain hend | ⟨⟨⟨todo', ph', he'⟩, hcons'⟩, hdone⟩ := executes_runEngine ⟨⟨todo, ph, he⟩, hcons⟩ k
  · exact .inl hend
  · exact .inr ⟨(busy_eq_true_iff _).2 ⟨_, _, _, he'⟩, hdone, (holding_of_engineStep he' hcons' hrest).2⟩

end Sys2Proof.Machine
end

section
/-! PROOFS. What an engine step does not depend on: the capacities of the output ports, while they have room
(10_state.md R60; 20_memory.md R108). -/

namespace Sys2Proof.Machine

/-- The state with other port capacities. -/
def State.withDepth (s : State) (d : Depths) : State := { s with par := { s.par with depth := d } }

/-- What a pop came to, with other port capacities in the state it leaves. -/
def Taken.withDepth {α : Type} (d : Depths) : Taken α → Taken α
  | .hold => .hold
  | .eos => .eos
  | .got a t => .got a (t.withDepth d)

/-- What a fetch came to, with other port capacities in the state it leaves. -/
def Fetch.withDepth (d : Depths) : Fetch → Fetch
  | .ready => .ready
  | .hold => .hold
  | .eos => .eos
  | .progress t => .progress (t.withDepth d)

section
variable {s t : State} {d : Depths} {ph : Phase} {a : Act} {recv : Bool} {m : ℕ}

theorem withDepth_withDepth (s : State) (d d' : Depths) : (s.withDepth d).withDepth d' = s.withDepth d' := rfl

theorem withDepth_load (s : State) (d : Depths) (todo : List Act) (q : Phase) :
    (s.withDepth d).load todo q = (s.load todo q).withDepth d := by
  unfold State.load
  rw [show (s.withDepth d).eng = s.eng from rfl]
  split <;> rfl

/-! ### Pops and fetches -/

theorem popByte_withDepth (s : State) (d : Depths) : (s.withDepth d).popByte = s.popByte.withDepth d := by
  cases hin : s.port.byteIn with
  | cons b rest => rw [popByte_cons hin, popByte_cons (s := s.withDepth d) hin]; rfl
  | nil =>
    rw [popByte_nil hin, popByte_nil (s := s.withDepth d) hin, show (s.withDepth d).port = s.port from rfl]
    split <;> rfl

theorem popSym_withDepth (s : State) (d : Depths) : (s.withDepth d).popSym = s.popSym.withDepth d := by
  cases hin : s.port.symIn with
  | cons u rest => rw [popSym_cons hin, popSym_cons (s := s.withDepth d) hin]; rfl
  | nil =>
    rw [popSym_nil hin, popSym_nil (s := s.withDepth d) hin, show (s.withDepth d).port = s.port from rfl]
    split <;> rfl

section
variable (hroom : s.RoomFor s.par.depth 1) (hroom' : s.RoomFor d 1)
include hroom hroom'

theorem popSmp_withDepth : (s.withDepth d).popSmp recv = (s.popSmp recv).withDepth d := by
  cases hin : s.port.smpIn with
  | nil =>
    rw [popSmp_nil hin, popSmp_nil (s := s.withDepth d) hin, show (s.withDepth d).port = s.port from rfl]
    split <;> rfl
  | cons u rest =>
    cases recv with
    | false => rw [popSmp_cons hin, popSmp_cons (s := s.withDepth d) hin]; rfl
    | true =>
      rw [popSmp_recv_cons hin fun _ => hroom.dump, popSmp_recv_cons (s := s.withDepth d) hin fun _ => hroom'.dump]
      rfl

theorem popSample_withDepth : (s.withDepth d).popSample recv = (s.popSample recv).withDepth d := by
  rw [State.popSample, popSmp_withDepth hroom hroom', State.popSample]
  cases s.popSmp recv with
  | got u t =>
    dsimp only [Taken.withDepth]
    rw [show (s.withDepth d).pcmEn = s.pcmEn from rfl, show (s.withDepth d).pcmLo = s.pcmLo from rfl]
    split
    · split <;> rfl
    · rfl
  | _ => rfl

theorem fetch_withDepth (i : Int) : (s.withDepth d).fetch recv i = (s.fetch recv i).withDepth d := by
  unfold State.fetch
  rw [show (s.withDepth d).rs = s.rs from rfl, popSample_withDepth hroom hroom']
  split
  · rfl
  · cases s.popSample recv with
    | got x t => cases x <;> rfl
    | _ => rfl

/-! ### Steps -/

/-- The rules read the capacities in RECV's pops alone. -/
theorem stepPhase_withDepth (ph : Phase) : (s.withDepth d).stepPhase ph = (s.stepPhase ph).map (·.withDepth d) := by
  have hload {v w : State} {todo : List Act} {q : Phase} (hw : w = v.withDepth d) :
      some (w.load todo q) = (some (v.load todo q)).map (·.withDepth d) := by
    rw [hw, withDepth_load]; rfl
  have hite {p : Prop} [Decidable p] {x y x' y' : Option State} (hx : x' = x.map (·.withDepth d))
      (hy : y' = y.map (·.withDepth d)) : (if p then x' else y') = (if p then x else y).map (·.withDepth d) := by
    rw [hx, hy]; exact (apply_ite ..).symm
  have hsetup : SameSetup (s.withDepth d) s := ⟨rfl, rfl, rfl⟩
  have hneed (recv : Bool) : (s.withDepth d).fetch recv (s.withDepth d).rsNeed = (s.fetch recv s.rsNeed).withDepth d :=
    fetch_withDepth hroom hroom' _
  have hcorr : (s.withDepth d).fetch true ((s.withDepth d).corrNeed (s.withDepth d).rx.d) =
      (s.fetch true (s.corrNeed s.rx.d)).withDepth d := fetch_withDepth hroom hroom' _
  cases ph with
  | adv left =>
    cases left with
    | zero => rfl
    | succ left =>
      simp only [State.stepPhase, State.stepAdv, hneed]
      cases s.fetch false s.rsNeed with
      | ready => exact hload rfl
      | _ => rfl
  | mod left syms =>
    cases left with
    | zero => rfl
    | succ left =>
      simp only [State.stepPhase, State.stepMod, popSym_withDepth]
      cases s.popSym with
      | got u t => exact hite (hload rfl) (hload rfl)
      | _ => rfl
  | demod left win =>
    cases left with
    | zero => rfl
    | succ left =>
      simp only [State.stepPhase, State.stepDemod, hneed]
      cases s.fetch false s.rsNeed with
      | ready => exact hite (hload rfl) (hload rfl)
      | _ => rfl
  | lead left => cases left <;> exact hload rfl
  | preamble i => exact hite (hload rfl) (hload rfl)
  | data =>
    simp only [State.stepPhase, State.stepData, popByte_withDepth]
    cases s.popByte with
    | hold => rfl
    | eos => exact hload rfl
    | got b t => exact hite (hload rfl) (hload rfl)
  | emit queue last => cases queue <;> exact hload rfl
  | pad => exact hite (hload rfl) (hload rfl)
  | trail left => cases left <;> exact hload rfl
  | skip left =>
    cases left with
    | zero => exact hload rfl
    | succ left =>
      simp only [State.stepPhase, State.stepSkip, popSample_withDepth hroom hroom']
      cases s.popSample true with
      | hold => rfl
      | eos => exact hload rfl
      | got x t =>
        cases x with
        | none => rfl
        | some x => exact hload rfl
  | search =>
    simp only [State.stepPhase, State.stepSearch, hcorr]
    refine hite (hload rfl) ?_
    cases s.fetch true (s.corrNeed s.rx.d) with
    | eos => exact hload rfl
    | ready => exact hite (hload rfl) rfl
    | _ => rfl
  | refine =>
    have hpeak : some (s.withDepth d).peakFound = (some s.peakFound).map (·.withDepth d) :=
      hload rfl
    simp only [State.stepPhase, State.stepRefine, hcorr]
    refine hite hpeak ?_
    cases s.fetch true (s.corrNeed s.rx.d) with
    | eos => exact hpeak
    | ready => exact hite rfl rfl
    | _ => rfl
  | calibrate =>
    simp only [State.stepPhase, State.stepCalibrate, hsetup.initialRatio]
    exact hload rfl
  | receive win =>
    simp only [State.stepPhase, State.stepReceive, hneed, hsetup.slicedBits]
    cases s.fetch true s.rsNeed with
    | eos => exact hload rfl
    | ready => exact hite (hload rfl) (hload rfl)
    | _ => rfl
  | rxBits bits pilot =>
    refine hite (hload rfl) ?_
    cases bits with
    | nil => exact hload rfl
    | cons b rest => exact hload rfl
  | confirm left =>
    cases left with
    | zero => exact hload rfl
    | succ left =>
      simp only [State.stepPhase, State.stepConfirm, hneed]
      cases s.fetch true s.rsNeed with
      | eos => exact hload rfl
      | ready => exact hload rfl
      | _ => rfl
  | closing => rfl

theorem perform_withDepth (a : Act) : (s.withDepth d).perform a = (s.perform a).map (·.withDepth d) := by
  cases a with
  | pushSmp u =>
    rw [State.perform, State.perform, pushSmp_eq_some.2 ⟨hroom.smpOut, rfl⟩,
      (pushSmp_eq_some (s := s.withDepth d)).2 ⟨hroom'.smpOut, rfl⟩]
    rfl
  | pushSym u =>
    rw [State.perform, State.perform, pushSym_eq_some.2 ⟨hroom.symOut, rfl⟩,
      (pushSym_eq_some (s := s.withDepth d)).2 ⟨hroom'.symOut, rfl⟩]
    rfl
  | pushByte b =>
    rw [State.perform, State.perform, pushByte_eq_some.2 ⟨hroom.byteOut, rfl⟩,
      (pushByte_eq_some (s := s.withDepth d)).2 ⟨hroom'.byteOut, rfl⟩]
    rfl
  | track z => exact congrArg some (track_withClock (x := s.withDepth d) (s := s) ⟨rfl, rfl, rfl⟩ z)
  | _ => rfl

/-- An engine step is the same under other capacities, where a unit more has room in every output port. -/
theorem engineStep_withDepth : (s.withDepth d).engineStep = s.engineStep.map (·.withDepth d) := by
  cases he : s.eng with
  | idle => rw [engineStep_idle he, engineStep_idle (s := s.withDepth d) he]; rfl
  | run c todo ph =>
    cases todo with
    | nil =>
      rw [engineStep_phase he, engineStep_phase (s := s.withDepth d) he]
      exact stepPhase_withDepth hroom hroom' ph
    | cons a rest =>
      have hload {d' : Depths} (h : s.RoomFor d' 1) : (s.load rest ph).RoomFor d' 1 := by
        rw [load_frame]; exact { h with }
      rw [engineStep_act he, engineStep_act (s := s.withDepth d) he, withDepth_load]
      exact perform_withDepth (by rw [load_par]; exact hload hroom) (hload hroom') a

end

/-! ### Room -/

/-- A step leaves what was in the output ports and adds at most a unit to each. -/
structure AddsUnit (s t : State) : Prop where
  byteOut : s.port.byteOut.length ≤ t.port.byteOut.length ∧ t.port.byteOut.length ≤ s.port.byteOut.length + 1
  smpOut : s.port.smpOut.length ≤ t.port.smpOut.length ∧ t.port.smpOut.length ≤ s.port.smpOut.length + 1
  symOut : s.port.symOut.length ≤ t.port.symOut.length ∧ t.port.symOut.length ≤ s.port.symOut.length + 1
  dump : s.port.dump.length ≤ t.port.dump.length ∧ t.port.dump.length ≤ s.port.dump.length + 1

theorem addsUnit_congr (h : t.port = s.port) : AddsUnit s t := by constructor <;> simp [h]

theorem addsUnit_popSample {x : Option Scalar} (h : s.popSample recv = .got x t) : AddsUnit s t := by
  obtain ⟨u, v, hpop, hx⟩ := popSample_got h
  have hdump : s.port.dump.length ≤ v.port.dump.length ∧ v.port.dump.length ≤ s.port.dump.length + 1 := by
    cases recv with
    | false => rw [(popSmp_got hpop).2]; exact ⟨le_rfl, Nat.le_succ _⟩
    | true =>
      rw [(popSmp_recv_got hpop).2.1]
      split <;> simp
  have hport : t.port = v.port := by obtain ⟨-, -, rfl⟩ | ⟨-, -, -, rfl⟩ | ⟨-, lo, -, -, rfl⟩ := hx <;> rfl
  rw [← hport] at hdump
  constructor
  case dump => exact hdump
  all_goals rw [popSample_frame h]; exact ⟨le_rfl, Nat.le_succ _⟩

theorem addsUnit_engineStep (h : s.engineStep = some t) : AddsUnit s t := by
  obtain ⟨c, a, rest, ph, -, h⟩ | ⟨c, ph, -, h⟩ := engineStep_cases h
  · cases perform_cases h with
    | pushSmp | pushSym | pushByte => constructor <;> simp
    | _ => constructor <;> simp [State.clearByteIn, State.clearSmpIn, State.track, State.trackBy]
  · obtain ⟨u, heff, hexit⟩ := stepPhase_cases h
    have hport : t.port = u.port := by cases hexit <;> simp
    have hu : AddsUnit s u := by
      cases heff with
      | unit hp => exact addsUnit_popSample hp
      | sample hp => exact { addsUnit_popSample hp with }
      | symbol | byte => constructor <;> simp
      | _ => exact addsUnit_congr rfl
    obtain ⟨hbyte, hsmp, hsym, hdump⟩ := hu
    constructor <;> rwa [hport]

theorem roomFor_after (h : AddsUnit s t) (hroom : s.RoomFor d (m + 1)) : t.RoomFor d m := by
  obtain ⟨hbyte, hsmp, hsym, hdump⟩ := h
  obtain ⟨hbyte', hsmp', hsym', hdump'⟩ := hroom
  constructor <;> omega

theorem roomFor_before (h : AddsUnit s t) (hroom : t.RoomFor d m) : s.RoomFor d m := by
  obtain ⟨hbyte, hsmp, hsym, hdump⟩ := h
  obtain ⟨hbyte', hsmp', hsym', hdump'⟩ := hroom
  constructor <;> omega

theorem State.RoomFor.mono {n : ℕ} (h : s.RoomFor d m) (hn : n ≤ m) : s.RoomFor d n := by
  obtain ⟨hbyte, hsmp, hsym, hdump⟩ := h
  constructor <;> omega

/-- Capacities with room for one unit more in every output port. -/
def State.roomyDepths (s : State) : Depths :=
  { s.par.depth with
    byteOut := s.port.byteOut.length + 1
    smpOut := s.port.smpOut.length + 1
    symOut := s.port.symOut.length + 1
    dump := s.port.dump.length + 1 }

theorem roomFor_roomyDepths (s : State) : s.RoomFor s.roomyDepths 1 := ⟨le_rfl, le_rfl, le_rfl, le_rfl⟩

end

end Sys2Proof.Machine
end

section
/-! PROOFS. A command whose input is marked ends, with room in its output ports: RECEIVING's blocks are paid for by the
samples ahead of the read position, which a block advances by N·r/2 at least (70_reset_and_hazards.md R415;
44_frame_rx.md R334; 42_demodulator.md R234). -/

namespace Sys2Proof.Machine

section
variable {s t u : State} {c : Instr} {ph : Phase} {todo : List Act} {ρ : Scalar}

/-! ### The blocks ahead -/

/-- The samples RECEIVING may still reach: those in `rs.buf`, and one a unit of SMP_IN. -/
def State.samplesAhead (s : State) : ℕ := s.rs.buf.length + s.port.smpIn.length

/-- Where the window at hand begins; while the tracking update of a block is still to come, where it may move the next window
to at least (42_demodulator.md R232, R234). -/
def State.windowStart (s : State) : Scalar :=
  match s.eng with
  | .run _ [] (.receive win) => s.rs.pos - win.length * s.rs.ratio
  | .run _ _ (.receive win) => s.rs.pos - s.nSym * s.rs.ratio / 2 - win.length * (3 * s.rs.ratio / 2)
  | _ => s.rs.pos - s.nSym * s.rs.ratio / 2

theorem windowStart_receive {win : List Scalar} (he : s.eng = .run c [] (.receive win)) :
    s.windowStart = s.rs.pos - win.length * s.rs.ratio := by
  rw [State.windowStart, he]

theorem windowStart_toTrack {a : Act} {win : List Scalar} (he : s.eng = .run c (a :: todo) (.receive win)) :
    s.windowStart = s.rs.pos - s.nSym * s.rs.ratio / 2 - win.length * (3 * s.rs.ratio / 2) := by
  rw [State.windowStart, he]

theorem windowStart_rxBits {bits : List Bool} {z : Cx} (he : s.eng = .run c todo (.rxBits bits z)) :
    s.windowStart = s.rs.pos - s.nSym * s.rs.ratio / 2 := by
  rw [State.windowStart, he]
  cases todo <;> rfl

/-- The blocks whose windows fit before the last sample, where each advances by N·ρ/2 at least. -/
def State.blocksAhead (ρ : Scalar) (s : State) : ℕ := ⌈(s.samplesAhead - s.windowStart) / (s.nSym * ρ / 2)⌉₊

theorem blocksAhead_le (hN : t.nSym = s.nSym) (hρ : 0 ≤ (s.nSym : Scalar) * ρ / 2)
    (hsamples : t.samplesAhead ≤ s.samplesAhead) (hstart : s.windowStart ≤ t.windowStart) :
    t.blocksAhead ρ ≤ s.blocksAhead ρ := by
  have hsamples' : (t.samplesAhead : Scalar) ≤ s.samplesAhead := mod_cast hsamples
  rw [State.blocksAhead, State.blocksAhead, hN]
  refine Nat.ceil_mono ?_
  gcongr

/-- A window a block further leaves a block fewer. -/
theorem blocksAhead_lt (hN : t.nSym = s.nSym) (hρ : 0 < (s.nSym : Scalar) * ρ / 2)
    (hsamples : t.samplesAhead ≤ s.samplesAhead) (hahead : s.windowStart < s.samplesAhead)
    (hstart : s.windowStart + s.nSym * ρ / 2 ≤ t.windowStart) :
    t.blocksAhead ρ < s.blocksAhead ρ := by
  have hsamples' : (t.samplesAhead : Scalar) ≤ s.samplesAhead := mod_cast hsamples
  have hpos : 0 < s.blocksAhead ρ := Nat.ceil_pos.2 (div_pos (sub_pos.2 hahead) hρ)
  have hle : t.blocksAhead ρ ≤ s.blocksAhead ρ - 1 := by
    rw [State.blocksAhead, Nat.ceil_le, Nat.cast_sub hpos, Nat.cast_one, hN, div_le_iff₀ hρ, sub_mul, one_mul]
    have hceil : (s.samplesAhead - s.windowStart) / (s.nSym * ρ / 2) ≤ (s.blocksAhead ρ : Scalar) := Nat.le_ceil _
    rw [div_le_iff₀ hρ] at hceil
    linarith
  omega

theorem samplesAhead_popSample {recv : Bool} {x : Option Scalar} (h : s.popSample recv = .got x t) :
    t.samplesAhead + 1 = s.samplesAhead := by
  obtain ⟨u, hin⟩ := popSample_smpIn h
  have hrs : t.rs = s.rs := by rw [popSample_frame h]
  rw [State.samplesAhead, State.samplesAhead, hin, hrs, List.length_cons]
  omega

theorem samplesAhead_fetch {recv : Bool} {i : Int} (h : s.fetch recv i = .progress t) :
    t.samplesAhead ≤ s.samplesAhead := by
  obtain ⟨-, hpop | ⟨x, v, hpop, rfl⟩⟩ := fetch_progress h
  · exact (Nat.le_succ _).trans (samplesAhead_popSample hpop).le
  · have hv := samplesAhead_popSample hpop
    simp only [State.samplesAhead, State.appendSample, List.length_append, List.length_singleton] at *
    omega

theorem windowStart_fetch {recv : Bool} {i : Int} (h : s.fetch recv i = .progress t) : t.windowStart = s.windowStart := by
  obtain ⟨-, hpop | ⟨x, v, hpop, rfl⟩⟩ := fetch_progress h <;> rw [popSample_frame hpop] <;> rfl

/-- The samples the kernel needs reach past the read position (40_resampler.md R174). -/
theorem pos_lt_of_needed (h : s.rsNeed < s.rs.buf.length) : s.rs.pos < s.samplesAhead := by
  have hfloor : s.rs.pos.floor < (s.samplesAhead : Int) := by
    have hle : s.rs.pos.floor ≤ s.rsNeed := by unfold State.rsNeed interpNeed; split <;> omega
    rw [State.samplesAhead]
    push_cast
    omega
  exact Rat.floor_lt_iff.1 hfloor

/-- A tracking update moves the window no further back than foreseen (42_demodulator.md R234). -/
theorem windowStart_track {win : List Scalar} {z : Cx} (hnum : u.num.Exact) (hchecks : u.TrackingChecks)
    (hratio : 0 < u.rs.ratio) (hu : u.eng = .run .recv [] (.receive win)) :
    u.rs.pos - u.nSym * u.rs.ratio / 2 - win.length * (3 * u.rs.ratio / 2) ≤ (u.track z).windowStart := by
  obtain ⟨hpos, -, hup⟩ := track_bounds hchecks hnum hratio z
  have hwin := mul_le_mul_of_nonneg_left hup (Nat.cast_nonneg (α := Scalar) win.length)
  rw [windowStart_receive (s := u.track z) hu]
  linarith [(abs_le.1 hpos).1]

/-- A window is sliced with the read position in the samples, and the next one begins N·r/2 further at least (44_frame_rx.md
R334). -/
theorem windowStart_block {win : List Scalar} (hnum : s.num.Exact) (hratio : 0 ≤ s.rs.ratio)
    (he : s.eng = .run .recv [] (.receive win)) (hneed : s.rsNeed < s.rs.buf.length) (hwhole : s.nSym ≤ win.length + 1) :
    s.windowStart < s.samplesAhead ∧
      s.windowStart + s.nSym * s.rs.ratio / 2 ≤ s.num.add s.rs.pos s.rs.ratio - s.nSym * s.rs.ratio / 2 := by
  have hpos := pos_lt_of_needed hneed
  have hwin : 0 ≤ (win.length : Scalar) * s.rs.ratio := by positivity
  have hwhole' : (s.nSym : Scalar) ≤ win.length + 1 := mod_cast hwhole
  have hblock := mul_le_mul_of_nonneg_right hwhole' hratio
  rw [windowStart_receive he, hnum.add]
  constructor <;> linarith

/-- A block takes one off the blocks ahead when it is sliced, and no other step of RECEIVING adds one. -/
theorem blocksAhead_receivingStep {n : ℕ} (hnum : s.num.Exact) (hchecks : s.TrackingChecks) (hρ : 0 < ρ)
    (hratio : ρ ≤ s.rs.ratio) (h : ReceivingStep s n t) : t.blocksAhead ρ + n ≤ s.blocksAhead ρ := by
  have hN := hchecks.nSym_pos
  have hq : 0 < (s.nSym : Scalar) * ρ / 2 := by positivity
  cases h with
  | unit he hf =>
    have hsym : t.nSym = s.nSym := by rw [State.nSym, (keepsSetup_fetch hf).cfg]; rfl
    exact blocksAhead_le hsym hq.le (samplesAhead_fetch hf) (windowStart_fetch hf).ge
  | @sample win he =>
    refine blocksAhead_le rfl hq.le le_rfl ?_
    have hpos : s.rsStep.rs.pos = s.rs.pos + s.rs.ratio := hnum.add _ _
    rw [windowStart_receive he, windowStart_receive (c := .recv) rfl, List.length_append, List.length_singleton]
    rw [hpos, show s.rsStep.rs.ratio = s.rs.ratio from rfl]
    push_cast
    linarith
  | block z he hneed hwhole =>
    obtain ⟨hahead, hstart⟩ := windowStart_block hnum (hρ.le.trans hratio) he hneed hwhole
    refine blocksAhead_lt rfl hq le_rfl hahead ?_
    refine (le_trans ?_ hstart).trans (windowStart_rxBits rfl).ge
    gcongr
  | bit he | deliver he | count _ he =>
    refine blocksAhead_le rfl hq.le le_rfl ?_
    rw [windowStart_rxBits he]
    exact (windowStart_rxBits rfl).ge
  | blockEnd he =>
    refine blocksAhead_le rfl hq.le le_rfl (le_of_eq ?_)
    rw [windowStart_rxBits he, windowStart_toTrack rfl]
    simp [State.nSym]
  | track he =>
    refine blocksAhead_le rfl hq.le le_rfl ?_
    rw [windowStart_toTrack he]
    exact windowStart_track (u := { s with eng := _ }) hnum { hchecks with } (hρ.trans_le hratio) rfl

theorem pays_blocksAhead (h : s.RatioPositive) (hρ : 0 < ρ) (hratio : ρ ≤ s.rs.ratio) (hstep : s.engineStep = some t) :
    Pays (State.blocksAhead ρ) s t :=
  pays_of_receivingStep h.engine hstep fun _ hr => by
    have hchecks : s.TrackingChecks := by
      have hrun : ∃ todo ph, s.eng = .run .recv todo ph := by cases hr <;> exact ⟨_, _, ‹_›⟩
      obtain ⟨todo, ph, he⟩ := hrun
      exact trackingChecks_of_command (.inl rfl) (h.checks _ _ _ he)
    exact blocksAhead_receivingStep h.exact hchecks hρ hratio hr

/-! ### A bound of the ratio where it is not tracked -/

/-- The initial ratio is 2/3 at least (44_frame_rx.md R307). -/
theorem initialRatio_ge (hnum : s.num.Exact) (hchecks : s.TrackingChecks) (rs : List (List Cx)) :
    2 / 3 ≤ s.initialRatio rs := by
  have hN := hchecks.nSym_pos
  have hdrift : |s.drift rs| ≤ s.nSym / 2 := (abs_drift_le hnum hchecks rs).trans (by
    have := hchecks.bin
    gcongr
    linarith)
  obtain ⟨hlow, hup⟩ := abs_le.1 hdrift
  rw [State.initialRatio, hnum.div, hnum.add, le_div_iff₀ (by linarith)]
  linarith

theorem track_ratio_of_kI (hnum : s.num.Exact) (hkI : s.kI = 0) (z : Cx) : (s.track z).rs.ratio = s.rs.ratio := by
  rw [track_eq]
  simp [hnum.sub, hnum.mul, hnum.div, hkI]

/-- With k_I = 0 calibration alone sets the ratio. -/
theorem ratio_engineStep_of_kI (h : s.RatioPositive) (hkI : s.kI = 0) (hstep : s.engineStep = some t) :
    t.rs.ratio = s.rs.ratio ∨ 2 / 3 ≤ t.rs.ratio := by
  obtain ⟨c, a, rest, ph, hc, he⟩ | ⟨c, ph, hc, he⟩ := engineStep_cases hstep
  · obtain hkept | ⟨z, rfl, rfl⟩ := perform_ratio he
    · exact .inl (by rw [hkept, load_rs])
    · have hload := load_run hc rest ph
      rw [track_ratio_of_kI (by rw [load_num]; exact h.exact) (by rw [hload]; exact hkI), load_rs]
      exact .inl rfl
  · obtain hkept | ⟨rfl, rs, hinit⟩ := stepPhase_ratio he
    · exact .inl hkept
    · have hchecks := trackingChecks_of_command (.inl (recv_of_calibrate hc h.engine)) (h.checks _ _ _ hc)
      exact .inr (hinit ▸ initialRatio_ge h.exact hchecks rs)

theorem ratioPositive_withDepth (h : s.RatioPositive) (d : Depths) : (s.withDepth d).RatioPositive where
  exact := h.exact
  engine := h.engine
  checks c todo ph he := by
    have hchecks := h.checks c todo ph he
    cases c <;> exact hchecks
  ratio := h.ratio

/-- With k_I = 0 the ratio of every run is bounded below. -/
theorem exists_ratio_bound (h : s.RatioPositive) (hkI : s.kI = 0) :
    ∃ ρ : Scalar, 0 < ρ ∧ ∀ (d : Depths) (k : ℕ), ρ ≤ (State.runEngine k (s.withDepth d)).rs.ratio := by
  refine ⟨min s.rs.ratio (2 / 3), lt_min h.ratio (by norm_num), fun d k => ?_⟩
  refine (runEngine_keeps (P := fun v => v.RatioPositive ∧ v.kI = 0 ∧ min s.rs.ratio (2 / 3) ≤ v.rs.ratio)
    (fun v w hv hw => ?_) k ⟨ratioPositive_withDepth h d, hkI, min_le_left _ _⟩).2.2
  obtain ⟨hpos, hkI, hle⟩ := hv
  refine ⟨ratioPositive_engineStep hw hpos, by rw [State.kI, (keepsSetup_engineStep hw).cfg]; exact hkI, ?_⟩
  obtain hkept | hge := ratio_engineStep_of_kI hpos hkI hw
  · rwa [hkept]
  · exact (min_le_right _ _).trans hge

/-! ### The end of the input -/

/-- The command's input is marked, or the command is past it, in its end. -/
def State.InputEnded (s : State) (c : Instr) : Prop :=
  (∃ todo, s.eng = .run c todo .closing) ∨ s.InputMarked c

/-- The input ports carry the same marks. -/
structure SameMarks (s t : State) : Prop where
  byteIn : t.port.byteInEos = s.port.byteInEos
  smpIn : t.port.smpInEos = s.port.smpInEos
  symIn : t.port.symInEos = s.port.symInEos

theorem SameMarks.inputMarked (h : SameMarks s t) (hs : s.InputMarked c) : t.InputMarked c := by
  cases c with
  | send => exact h.byteIn.trans hs
  | mod => exact h.symIn.trans hs
  | recv | demod | rsAdv => exact h.smpIn.trans hs
  | _ => trivial

/-- A step clears a mark in the command's end alone (10_state.md R64; 44_frame_rx.md R323). -/
theorem sameMarks_engineStep (he : s.eng = .run c todo ph) (hcons : s.EngineConsistent) (hph : ph ≠ .closing)
    (h : s.engineStep = some t) : SameMarks s t := by
  cases todo with
  | nil =>
    rw [engineStep_phase he] at h
    obtain ⟨u, heff, hexit⟩ := stepPhase_cases h
    have hport : t.port = u.port := by cases hexit <;> simp
    have hu : SameMarks s u := by
      cases heff with
      | unit hp => rw [popSample_frame hp]; exact ⟨rfl, rfl, rfl⟩
      | sample hp => rw [popSample_frame hp]; exact ⟨rfl, rfl, rfl⟩
      | _ => exact ⟨rfl, rfl, rfl⟩
    exact ⟨hport ▸ hu.byteIn, hport ▸ hu.smpIn, hport ▸ hu.symIn⟩
  | cons a rest =>
    have hnoClear : a ≠ .clearByteIn ∧ a ≠ .clearSmpIn := by
      by_cases hrecv : c = .recv
      · subst hrecv
        have hp := (engineConsistent_recv he).1 hcons
        exact ⟨(by rintro rfl; cases ofRecv_of_recvPlace hp), fun ha => hph (closing_of_recvPlace hp (.inl ha))⟩
      · obtain ⟨-, ⟨-, hall⟩ | ⟨-, hno, -⟩⟩ := (engineConsistent_other hrecv he).1 hcons
        · obtain ⟨ha, -⟩ := Bool.and_eq_true_iff.1 hall
          exact ⟨(by rintro rfl; cases ha), (by rintro rfl; cases ha)⟩
        · exact absurd hno hph
    obtain ⟨hbyte, hsmp⟩ := hnoClear
    rw [engineStep_act he, load_run he] at h
    cases perform_cases h with
    | clearByteIn => exact absurd rfl hbyte
    | clearSmpIn => exact absurd rfl hsmp
    | _ => exact ⟨rfl, rfl, rfl⟩

/-- A command's end is left by the end alone. -/
theorem closing_engineStep (he : s.eng = .run c todo .closing) (h : s.engineStep = some t) (hbusy : t.busy = true) :
    ∃ todo', t.eng = .run c todo' .closing := by
  cases todo with
  | nil => rw [engineStep_phase he] at h; cases h
  | cons a rest =>
    rw [engineStep_act he] at h
    obtain ⟨e, -, rfl⟩ | ⟨heng, -⟩ := perform_control h
    · cases hbusy
    · exact ⟨rest, heng.trans (load_eng he _ _)⟩

theorem inputEnded_engineStep (hs : s.Executes c) (ht : t.Executes c) (hin : s.InputEnded c)
    (h : s.engineStep = some t) : t.InputEnded c := by
  obtain ⟨⟨todo, ph, he⟩, hcons⟩ := hs
  obtain ⟨⟨todo', ph', he'⟩, -⟩ := ht
  have hbusy : t.busy = true := (busy_eq_true_iff t).2 ⟨_, _, _, he'⟩
  by_cases hph : ph = .closing
  · subst hph
    exact .inl (closing_engineStep he h hbusy)
  · obtain ⟨todo₁, hclosing⟩ | hmark := hin
    · rw [he] at hclosing; cases hclosing; exact absurd rfl hph
    · exact .inr ((sameMarks_engineStep he hcons hph h).inputMarked hmark)

theorem not_holding (hmark : s.InputMarked c) (hroom : s.RoomFor s.par.depth 1) : ¬ s.Holding c := by
  have hfull {n d : ℕ} (h : n + 1 ≤ d) : ¬ d ≤ n := by omega
  have hempty {b : Bool} (h : b = true) : b ≠ false := by simp [h]
  cases c with
  | send | mod => exact fun h => h.elim (fun h => hempty hmark h.2) (hfull hroom.smpOut)
  | rsAdv => exact fun h => h.elim (fun h => hempty hmark h.2) (hfull hroom.smpOut)
  | demod => exact fun h => h.elim (fun h => hempty hmark h.2) (hfull hroom.symOut)
  | recv =>
    exact fun h => h.elim (fun h => hempty hmark h.2)
      fun h => h.elim (hfull hroom.byteOut) fun h => hfull hroom.dump h.2
  | _ => exact id

/-- With its input ended and room for a unit in every output port, an executing command takes a step. -/
theorem exists_engineStep (hs : s.Executes c) (hin : s.InputEnded c) (hroom : s.RoomFor s.par.depth 1) :
    ∃ t, s.engineStep = some t := by
  obtain ⟨⟨todo, ph, he⟩, hcons⟩ := hs
  refine Option.ne_none_iff_exists'.1 fun hnone => ?_
  obtain ⟨hph, hhold⟩ := holding_of_engineStep he hcons hnone
  obtain ⟨todo₁, hclosing⟩ | hmark := hin
  · rw [he] at hclosing; cases hclosing; exact hph rfl
  · exact not_holding hmark hroom hhold

/-! ### The end -/

/-- The ratio is positive, and at least ρ in every run with room for a unit to begin with. -/
def State.RatioAbove (ρ : Scalar) (s : State) : Prop :=
  s.RatioPositive ∧ ∀ d, s.RoomFor d 1 → ∀ k, ρ ≤ (State.runEngine k (s.withDepth d)).rs.ratio

theorem ratioAbove_engineStep {d₀ : Depths} (h : s.RatioAbove ρ) (hstep : (s.withDepth d₀).engineStep = some t)
    (hnext : ∀ d, s.RoomFor d 1 → (s.withDepth d).engineStep = some (t.withDepth d)) : t.RatioAbove ρ := by
  obtain ⟨hpos, hle⟩ := h
  refine ⟨ratioPositive_engineStep hstep (ratioPositive_withDepth hpos d₀), fun d hroom k => ?_⟩
  have hroom' : s.RoomFor d 1 :=
    { roomFor_before (addsUnit_engineStep hstep) hroom with }
  rw [← runEngine_some (hnext d hroom')]
  exact hle d hroom' (k + 1)

theorem pays_of_executes (hs : s.Executes c) (hρ : 0 < ρ) (hratio : c = .recv → s.RatioPositive ∧ ρ ≤ s.rs.ratio)
    (h : s.engineStep = some t) : Pays (State.blocksAhead ρ) s t := by
  obtain ⟨⟨todo, ph, he⟩, hcons⟩ := hs
  by_cases hrecv : c = .recv
  · obtain ⟨hpos, hle⟩ := hratio hrecv
    exact pays_blocksAhead hpos hρ hle h
  · rintro c₁ todo₁ ph₁ todo' ph' he₁ - hph -
    rw [he] at he₁
    cases he₁
    exact absurd (recv_of_receiving he hcons hph) hrecv

/-- An executing command whose input has ended has a number of units that, with room for them, it ends within: one a step. -/
theorem exists_room_to_end (hs : s.Executes c) (hin : s.InputEnded c) (hρ : 0 < ρ)
    (hratio : c = .recv → s.RatioAbove ρ) :
    ∃ m, ∀ d, s.RoomFor d m → ∃ k, (State.runEngine k (s.withDepth d)).EndedAfter c := by
  induction hr : s.rank (State.blocksAhead ρ) using WellFoundedLT.induction generalizing s with
  | ind r ih =>
    subst hr
    let s₀ := s.withDepth s.roomyDepths
    have hroom₀ : s₀.RoomFor s₀.par.depth 1 := { roomFor_roomyDepths s with }
    have hs₀ : s₀.Executes c := hs
    obtain ⟨t, ht⟩ := exists_engineStep hs₀ hin hroom₀
    have hnext (d : Depths) (hroom : s.RoomFor d 1) : (s.withDepth d).engineStep = some (t.withDepth d) := by
      have hstep := engineStep_withDepth hroom₀ (d := d) { hroom with }
      rwa [ht] at hstep
    obtain hend | ⟨hrun, -⟩ := executes_engineStep hs₀ ht
    · exact ⟨1, fun d hroom => ⟨1, by rw [runEngine_some (hnext d hroom)]; exact hend⟩⟩
    · obtain ⟨⟨todo, ph, he⟩, -⟩ := hs
      have ⟨⟨todo', ph', he'⟩, _⟩ := hrun
      have hpays : Pays (State.blocksAhead ρ) s₀ t := pays_of_executes hs₀ hρ (fun hc =>
        ⟨ratioPositive_withDepth (hratio hc).1 _, (hratio hc).2 _ (roomFor_roomyDepths s) 0⟩) ht
      have hlt : t.rank (State.blocksAhead ρ) < s.rank (State.blocksAhead ρ) :=
        (rank_engineStep (s := s₀) he hpays ht).resolve_left (by rw [he']; nofun)
      obtain ⟨m, hm⟩ := ih _ hlt hrun (inputEnded_engineStep hs₀ hrun hin ht)
        (fun hc => ratioAbove_engineStep (hratio hc) ht hnext) rfl
      refine ⟨m + 1, fun d hroom => ?_⟩
      obtain ⟨k, hk⟩ := hm d (roomFor_after (s := s₀) (addsUnit_engineStep ht) { hroom with })
      exact ⟨k + 1, by rwa [runEngine_some (hnext d (hroom.mono (Nat.le_add_left 1 m)))]⟩

end

/-- Settles O48: on marked input with room every step can be taken, does not depend on the capacities and lowers the rank,
RECEIVING's blocks paid for by the samples ahead of the read position; with k_I = 0 the ratio is bounded below. -/
theorem commandEndsOnFiniteInput : Obligations.CommandEndsOnFiniteInput := by
  unfold Obligations.CommandEndsOnFiniteInput
  intro s c todo ph he hcons hmark hrecv
  have hbound : ∃ ρ : Scalar, 0 < ρ ∧ (c = .recv → s.RatioAbove ρ) := by
    by_cases hc : c = .recv
    · obtain ⟨hpos, hkI | ⟨ρ, hρ, hle⟩⟩ := hrecv hc
      · have hkI : s.kI = 0 := by rw [State.kI, realOf, hkI]; rfl
        obtain ⟨ρ, hρ, hle⟩ := exists_ratio_bound hpos hkI
        exact ⟨ρ, hρ, fun _ => ⟨hpos, fun d _ => hle d⟩⟩
      · exact ⟨ρ, hρ, fun _ => ⟨hpos, fun d _ => hle d⟩⟩
    · exact ⟨1, one_pos, fun h => absurd h hc⟩
  obtain ⟨ρ, hρ, hratio⟩ := hbound
  exact exists_room_to_end ⟨⟨todo, ph, he⟩, hcons⟩ (.inr hmark) hρ hratio

end Sys2Proof.Machine
end
